-- ==== Sys2Proof/Word.lean ====
section
/-! DEFINITION. The widths of ws0010-PBT (spec/00_scope.md R13). -/

namespace Sys2Proof

/-- The level of a line: `false` is 0 (low), `true` is 1 (high) (R13). -/
abbrev Level := Bool

/-- An unsigned 8-bit value (R13). -/
abbrev Byte := BitVec 8

/-- Half of a byte, an unsigned 4-bit value (R13). -/
abbrev Nibble := BitVec 4

/-- A request word (R78). -/
abbrev ReqWord := BitVec 32

/-- A response word (R87). -/
abbrev RespWord := BitVec 16

end Sys2Proof
end

