-- ==== Sys2Proof/Syntax.lean ====
section
/-! DEFINITION. The nine requests in their abstract form: mnemonic and operand values (spec/30_encoding.md section 3,
R83). -/

namespace Sys2Proof

/-- A request, one constructor for each row of spec/opcode_table.json. Coordinates are mathematical integers (R82). -/
inductive Instr where
  /-- `PSET x, y, v` (R101). -/
  | pset (x y : Int) (v : Byte)
  /-- `PGET x, y` (R102). -/
  | pget (x y : Int)
  /-- `PCLR` (R103). -/
  | pclr
  /-- `PACK` (R111). -/
  | pack
  /-- `XFER rs, b` (R124, R125). -/
  | xfer (rs : Level) (b : Byte)
  /-- `NIB rs, n` (R126). -/
  | nib (rs : Level) (n : Nibble)
  /-- `INIT4` (R127). -/
  | init4
  /-- `RELEASE` (R128). -/
  | release
  /-- `REFRESH` (R171). -/
  | refresh
deriving DecidableEq, Repr

end Sys2Proof
end

