-- ==== Sys2Proof/WellFormed.lean ====
section
/-! DEFINITION. Which requests the request word can carry: coordinates fit 10-bit two's-complement fields (R80, R82).
The other operands are well formed by their type. -/

namespace Sys2Proof

/-- A coordinate the 10-bit field can hold: -512..511 (R82). -/
def CoordFits (c : Int) : Bool := decide (-512 ≤ c) && decide (c ≤ 511)

/-- The request fits a request word (R82, R101, R102). -/
def WellFormed : Instr → Bool
  | .pset x y _ => CoordFits x && CoordFits y
  | .pget x y => CoordFits x && CoordFits y
  | .pclr => true
  | .pack => true
  | .xfer _ _ => true
  | .nib _ _ => true
  | .init4 => true
  | .release => true
  | .refresh => true

end Sys2Proof
end

