-- ==== Sys2Proof/Decode.lean ====
section
/-! DEFINITION. The request word (spec/30_encoding.md section 3): a total decoder that rejects by name, and the encoder.
-/

namespace Sys2Proof

/-- Why a word is illegal (R84). -/
inductive Reject where
  /-- (a) `OP` is 0x0 or 0xA to 0xF. -/
  | reservedOpcode
  /-- (b) a must-be-zero field of the word's format is not zero. -/
  | mustBeZero
deriving DecidableEq, Repr

/-- What a word decodes to: exactly one request, or illegal (R86). -/
inductive Decoded where
  | request (i : Instr)
  | illegal (why : Reject)
deriving DecidableEq, Repr

/-- `OP = w[31:28]` (R78). -/
def opField (w : ReqWord) : BitVec 4 := w.extractLsb' 28 4

/-- `X = w[27:18]` (R80). -/
def xField (w : ReqWord) : BitVec 10 := w.extractLsb' 18 10

/-- `Y = w[17:8]` (R80). -/
def yField (w : ReqWord) : BitVec 10 := w.extractLsb' 8 10

/-- `V = w[7:0]` (R80), and `B = w[7:0]` (R79). -/
def byteField (w : ReqWord) : Byte := w.extractLsb' 0 8

/-- The must-be-zero field `w[27:9]` of format T (R79). -/
def zeroFieldT (w : ReqWord) : BitVec 19 := w.extractLsb' 9 19

/-- `RS = w[8]` (R79, R82). -/
def rsField (w : ReqWord) : Level := w.getLsbD 8

/-- `B[3:0]`, the nibble of `NIB` (R79). -/
def nibbleField (w : ReqWord) : Nibble := w.extractLsb' 0 4

/-- `B[7:4]`, which must be 0 in `NIB` (R79). -/
def zeroFieldN (w : ReqWord) : BitVec 4 := w.extractLsb' 4 4

/-- The must-be-zero field `w[27:0]` of format Z (R81). -/
def zeroFieldZ (w : ReqWord) : BitVec 28 := w.extractLsb' 0 28

/-- `sext_10`: a 10-bit field read as a two's-complement integer (R82). -/
def sext10 (f : BitVec 10) : Int := f.toInt

/-- Answers `i` where the must-be-zero test holds (R84 (b)). -/
def whenZero (zero : Bool) (i : Instr) : Decoded :=
  if zero then .request i else .illegal .mustBeZero

/-- The decoder (R86): `OP` selects the row of R83, the must-be-zero fields of its format are checked (R84), the operands
are assembled by R82. It reads no state. -/
def decode (w : ReqWord) : Decoded :=
  match (opField w).toNat with
  | 0x1 => .request (.pset (sext10 (xField w)) (sext10 (yField w)) (byteField w))
  | 0x2 => whenZero (byteField w == 0) (.pget (sext10 (xField w)) (sext10 (yField w)))
  | 0x3 => whenZero (zeroFieldZ w == 0) .pclr
  | 0x4 => whenZero (zeroFieldZ w == 0) .pack
  | 0x5 => whenZero (zeroFieldT w == 0) (.xfer (rsField w) (byteField w))
  | 0x6 => whenZero (zeroFieldT w == 0 && zeroFieldN w == 0) (.nib (rsField w) (nibbleField w))
  | 0x7 => whenZero (zeroFieldZ w == 0) .init4
  | 0x8 => whenZero (zeroFieldZ w == 0) .release
  | 0x9 => whenZero (zeroFieldZ w == 0) .refresh
  | _ => .illegal .reservedOpcode

/-- A field put at bit `lo` of a request word (R78). -/
def placeField {k : Nat} (f : BitVec k) (lo : Nat) : ReqWord := f.setWidth 32 <<< lo

/-- Format P: `OP` 31:28, `X` 27:18, `Y` 17:8, `V` 7:0 (R80). -/
def encodeP (op : BitVec 4) (x y : Int) (v : Byte) : ReqWord :=
  placeField op 28 ||| placeField (BitVec.ofInt 10 x) 18 ||| placeField (BitVec.ofInt 10 y) 8 ||| placeField v 0

/-- Format T: `OP` 31:28, zeros 27:9, `RS` 8, `B` 7:0 (R79). -/
def encodeT (op : BitVec 4) (rs : Level) (b : Byte) : ReqWord :=
  placeField op 28 ||| placeField (BitVec.ofBool rs) 8 ||| placeField b 0

/-- Format Z: `OP` 31:28, zeros 27:0 (R81). -/
def encodeZ (op : BitVec 4) : ReqWord := placeField op 28

/-- The opcode of a request (R83). -/
def opcode : Instr → BitVec 4
  | .pset _ _ _ => 0x1
  | .pget _ _ => 0x2
  | .pclr => 0x3
  | .pack => 0x4
  | .xfer _ _ => 0x5
  | .nib _ _ => 0x6
  | .init4 => 0x7
  | .release => 0x8
  | .refresh => 0x9

/-- The request's word (R78 to R83). -/
def encode (i : Instr) : ReqWord :=
  match i with
  | .pset x y v => encodeP (opcode i) x y v
  | .pget x y => encodeP (opcode i) x y 0
  | .pclr => encodeZ (opcode i)
  | .pack => encodeZ (opcode i)
  | .xfer rs b => encodeT (opcode i) rs b
  | .nib rs n => encodeT (opcode i) rs (n.setWidth 8)
  | .init4 => encodeZ (opcode i)
  | .release => encodeZ (opcode i)
  | .refresh => encodeZ (opcode i)

/-- The instruction a word of `nbits` bits holds, for the host. Every request is one 32-bit word and there is one length
(R78), so bits above `nbits` are zero and a longer word is no request. -/
def decodeTableWord (nbits w : Nat) : Option Instr :=
  if nbits ≤ 32 then
    match decode (BitVec.ofNat 32 (w % 2 ^ nbits)) with
    | .request i => some i
    | .illegal _ => none
  else none

end Sys2Proof
end

