-- ==== Sys2Proof/Config.lean ====
section
/-! DEFINITION. What an implementation fixes: the straps sampled at reset, and the values the spec leaves OPEN.
The straps are arguments of the machine (R7 to R12) and are carried, never written, in State. Each `opaque` constant
has no value in the model: nothing can be proved of it, so a theorem that mentions one holds for every value. -/

namespace Sys2Proof

/-- The straps and OPEN parameters of spec/00_scope.md R7 to R11. Any integer is a possible strap: reset checks them (R181).
`NDATA` is the length of a list, so a natural (R7). -/
structure Straps where
  /-- `DATAWIDTH`, legal 4 or 8 (R7). -/
  dataWidth : Int
  /-- `NDATA`, the number of data line identifiers supplied (R7). -/
  nData : Nat
  /-- `W`, the pixel buffer's width, as it is strapped (R8). -/
  widthStrap : Int
  /-- `H`, the pixel buffer's height, as it is strapped (R8). -/
  heightStrap : Int
  /-- `DISPLAYLINES`, legal 1 or 2 (R11). -/
  displayLines : Int
  /-- `FONTHEIGHT`, legal 8 or 10 (R11). -/
  fontHeight : Int
  /-- `FONTVARIANT`, legal 0 to 3 (R11). -/
  fontVariant : Int
  /-- `T_SETUP` in microseconds (R9). -/
  tSetup : Nat
  /-- `T_EL` in microseconds (R9). -/
  tEl : Nat
  /-- `T_POST` in microseconds (R9). -/
  tPost : Nat
  /-- `FS4_NIBBLE`, the nibble that selects 4-bit mode (R10). -/
  fs4Nibble : Nibble
deriving DecidableEq, Repr

/-- `W` as a number of columns. It is the strap itself wherever reset's checks pass; a strap below 0 gives an empty buffer,
which no request reaches, since every request is then refused (R181, R191). -/
def Straps.width (c : Straps) : Nat := c.widthStrap.toNat

/-- `H` as a number of rows; as `Straps.width`. -/
def Straps.height (c : Straps) : Nat := c.heightStrap.toNat

/-- The names of the client layer's four shadow registers (spec/10_state.md R30). -/
inductive ShadowReg where
  | entryMode | displayControl | modePower | displayFunction
deriving DecidableEq, Repr, Inhabited

/-- `HOLD_US`: the delay between strobe high and strobe low, in microseconds (R9, R74). -/
def Config.holdUs : Nat := 1

/-- `T_EH_MIN` in nanoseconds: "a minimum of ~250 ns" (R9). The figure is approximate and the spec makes it a parameter of
which only `HOLD_US × 1000 ns ≥ T_EH_MIN` is used (U12 of spec/93_implementation_defined.md), so it is OPEN up to that
bound (log 13). -/
opaque Config.tEhMin : Fin (Config.holdUs * 1000 + 1)

/-- `T_EH_MIN` as a number of nanoseconds. -/
def Config.tEhMinNs : Nat := Config.tEhMin.val

/-- `FS4_NIBBLE` of the machine whose reset is `State.reset`: OPEN, no value (R10, D17, log 4). -/
opaque Config.fs4Nibble : Nibble

/-- The "clear display" command byte: OPEN (R141, log 4). -/
opaque Config.clearDisplay : Byte

/-- The "return home" command byte: OPEN (R141, log 4). -/
opaque Config.returnHome : Byte

/-- `SET_CGRAM_ADDR`: OPEN (R141, log 4). -/
opaque Config.setCgramAddr : Byte

/-- `SET_DDRAM_ADDR`: OPEN (R141, log 4). -/
opaque Config.setDdramAddr : Byte

/-- `ENTRYMODE_CMD`: OPEN (R141, log 4). -/
opaque Config.entryModeCmd : Byte

/-- `DISPLAYCONTROL_CMD`: OPEN (R141, log 4). -/
opaque Config.displayControlCmd : Byte

/-- `MODEPOWER_CMD`: OPEN (R141, log 4). -/
opaque Config.modePowerCmd : Byte

/-- `FUNCTIONSET_CMD`: OPEN (R141, log 4). -/
opaque Config.functionSetCmd : Byte

/-- `F_DISPLAY_ON`: OPEN (R142, log 4). -/
opaque Config.fDisplayOn : Byte

/-- `F_CURSOR_ON`: OPEN (R142, log 4). -/
opaque Config.fCursorOn : Byte

/-- `F_BLINK_ON`: OPEN (R142, log 4). -/
opaque Config.fBlinkOn : Byte

/-- `F_GRAPHICS`: the mask whose set state means graphics addressing, OPEN (R142, R149, log 4). -/
opaque Config.fGraphics : Byte

/-- `F_DCDC_ON`: OPEN (R142, log 4). -/
opaque Config.fDcdcOn : Byte

/-- `F_SHIFT_RIGHT`: OPEN (R142, log 4). -/
opaque Config.fShiftRight : Byte

/-- `F_SHIFT_LEFT`: OPEN (R142, log 4). -/
opaque Config.fShiftLeft : Byte

/-- The register that owns the shift-direction flag: the source does not name it, so it is OPEN (R148, N2, log 8). -/
opaque Config.shiftOwner : ShadowReg

/-- `FS_DW`: the mask of a data width: OPEN (R142, log 4). -/
opaque Config.fsDw : Int → Byte

/-- `FS_LINES`: the mask of a display line count: OPEN (R142, log 4). -/
opaque Config.fsLines : Int → Byte

/-- `FS_FONT`: the mask of a font height: OPEN (R142, log 4). -/
opaque Config.fsFont : Int → Byte

/-- `FS_VARIANT`: the mask of a font variant: OPEN (R142, log 4). -/
opaque Config.fsVariant : Int → Byte

/-- `ENTRYMODE_DEFAULT`: OPEN (R142, log 4). -/
opaque Config.entryModeDefault : Byte

/-- `DISPLAYCONTROL_DEFAULT`: OPEN (R142, log 4). -/
opaque Config.displayControlDefault : Byte

/-- `MODEPOWER_DEFAULT`: OPEN (R142, log 4). -/
opaque Config.modePowerDefault : Byte

/-- The straps of `State.reset`. DESIGN CHOICE (log 3): the spec leaves them arguments; these are legal, select HALF
mode, so that all nine requests run from reset, and give two line-groups. The three delays are the spec's default 0
(R9), and `FS4_NIBBLE` stays open. -/
def Config.resetStraps : Straps where
  dataWidth := 4
  nData := 4
  widthStrap := 8
  heightStrap := 16
  displayLines := 2
  fontHeight := 8
  fontVariant := 0
  tSetup := 0
  tEl := 0
  tPost := 0
  fs4Nibble := Config.fs4Nibble

end Sys2Proof
end

