-- ==== Sys2Proof/Machine/Types.lean ====
section
/-! DEFINITION. The data that the machine's state is made of: lines, events, logical transfers, registers, client
procedures, responses (spec/00_scope.md R12, R15; spec/10_state.md; spec/44_protocol_client.md R165). -/

namespace Sys2Proof.Machine

/-- The line identifiers: register-select, strobe, and the ordered data lines (R12). In HALF mode the block owns only
`d0` to `d3`. -/
inductive Line where
  | rs | e | d0 | d1 | d2 | d3 | d4 | d5 | d6 | d7
deriving DecidableEq, Repr

/-- The event alphabet (R15): one constructor per primitive call, and the teardown marker. -/
inductive Event where
  /-- `Open(l, Out)`: the line is claimed as an output. -/
  | openOut (l : Line)
  /-- `Wr(l, v)`: the line is driven to a level, whether or not the level changes. -/
  | wr (l : Line) (v : Level)
  /-- `Delay(n)`: at least `n` microseconds pass; no upper bound. -/
  | delay (n : Nat)
  /-- `Rel(l)`: the line is released. -/
  | rel (l : Line)
deriving DecidableEq, Repr

/-- An entry of the logical log `X` (R29, R130). -/
inductive LogEntry where
  /-- `Byte(rs, b)`. -/
  | byte (rs : Level) (b : Byte)
  /-- `Nib(rs, n)`. -/
  | nib (rs : Level) (n : Nibble)
deriving DecidableEq, Repr

/-- The transport capability (R22). -/
inductive Mode where
  /-- FullWidthTransfer: 8 data lines. -/
  | full
  /-- HalfWidthTransfer: 4 data lines. -/
  | half
deriving DecidableEq, Repr

/-- The lifecycle (R23). -/
inductive Life where
  /-- Lines acquired; requests are executed. -/
  | ready
  /-- A fatal error was raised. -/
  | fault
  /-- The lines were given back. -/
  | released
deriving DecidableEq, Repr

/-- The fault register (R24): a 3-bit cause and 32 bits whose meaning depends on it. -/
structure FaultReg where
  cause : BitVec 3
  info : BitVec 32
deriving DecidableEq, Repr

/-- The line output latches (R21), each the level last written. `d4` to `d7` exist in FULL mode only (log 6). -/
structure Latches where
  rs : Level
  e : Level
  d0 : Level
  d1 : Level
  d2 : Level
  d3 : Level
  d4 : Level
  d5 : Level
  d6 : Level
  d7 : Level
deriving DecidableEq, Repr

/-- ProtocolState, the client layer's shadow registers, a byte each (R30 to R34). -/
structure ClientRegs where
  entryMode : Byte
  displayControl : Byte
  modePower : Byte
  displayFunction : Byte
deriving DecidableEq, Repr

/-- The client procedures, pseudo-instructions that expand into `XFER` requests (R89, R165). Addresses, columns and rows
are naturals with no range (R150, R151). DESIGN CHOICE: a mask `m` is any byte (log 16) and a register `r` any of the four,
`displayFunction` too (log 17); R147 and R165 give neither a range. -/
inductive Pseudo where
  /-- `CMD b`. -/
  | cmd (b : Byte)
  /-- `DATA b`. -/
  | data (b : Byte)
  /-- `BRINGUP` (R146). -/
  | bringup
  /-- `SETFLAG r, m` (R147): any register, any byte (logs 16 and 17). -/
  | setFlag (r : ShadowReg) (m : Byte)
  /-- `CLRFLAG r, m` (R147): any register, any byte (logs 16 and 17). -/
  | clrFlag (r : ShadowReg) (m : Byte)
  /-- `SETCG a` (R150). -/
  | setCg (a : Nat)
  /-- `SETDD a` (R150). -/
  | setDd (a : Nat)
  /-- `SETPOS col, row` (R151). -/
  | setPos (col row : Nat)
  /-- `FINALIZE` (R160). -/
  | finalize
deriving DecidableEq, Repr

/-- What the host presents to the block, one at a time (R18, R62): a request word, or a client procedure still to be
expanded into request words (R165). -/
inductive HostInput where
  | word (w : ReqWord)
  | pseudo (p : Pseudo)
deriving DecidableEq, Repr

/-- A response (R87): the byte stream (`PACK` only, otherwise empty), then the response word. -/
structure Response where
  stream : List Byte
  word : RespWord
deriving DecidableEq, Repr

/-- A bus sample (R131): RS, the payload on the data lines and the number of data lines, as they stand when the strobe
rises. -/
structure Sample where
  rs : Level
  payload : Byte
  width : Nat
deriving DecidableEq, Repr

end Sys2Proof.Machine
end

