-- ==== Sys2Proof/Machine/Flags.lean ====
section
/-! DEFINITION. Status computations: the cause codes (R180), the response word (R87) and its fields. The block has one flag,
`init4_done` (R25), written by the micro-sequence of `INIT4` alone, and no arithmetic flags (R16). -/

namespace Sys2Proof.Machine

/-- Cause 0: no fault (R24). -/
def causeNone : BitVec 3 := 0

/-- Cause 1: ConfigurationError (R180, R181). -/
def causeConfiguration : BitVec 3 := 1

/-- Class number 2: OutOfRangeAccess, never recorded (R180, R182). -/
def causeOutOfRange : BitVec 3 := 2

/-- Cause 3: UnimplementedCapability (R180, R183). -/
def causeCapability : BitVec 3 := 3

/-- Cause 4: IllegalRequest (R180, R184). -/
def causeIllegal : BitVec 3 := 4

/-- The fault register with no fault recorded (R24, R38). -/
def noFault : FaultReg := { cause := causeNone, info := 0 }

/-- `STATUS` 0, `DONE` (R87). -/
def statusDone : BitVec 4 := 0

/-- `STATUS` 1, `FAULTED` (R87). -/
def statusFaulted : BitVec 4 := 1

/-- `STATUS` 2, `REFUSED` (R87). -/
def statusRefused : BitVec 4 := 2

/-- The response word: `STATUS` 15:12, `CAUSE` 11:9, `VALID` 8, `VALUE` 7:0 (R87). -/
def respWord (status : BitVec 4) (cause : BitVec 3) (valid : Level) (value : Byte) : RespWord :=
  status.setWidth 16 <<< 12 ||| cause.setWidth 16 <<< 9 ||| (BitVec.ofBool valid).setWidth 16 <<< 8 |||
    value.setWidth 16

/-- `(DONE, 0, 0)`. -/
def respDone : Response := { stream := [], word := respWord statusDone causeNone false 0 }

/-- `(DONE, valid=1, value=v)`: `PGET` in range (R102). -/
def respValue (v : Byte) : Response := { stream := [], word := respWord statusDone causeNone true v }

/-- The sentinel: `(DONE, valid=0, value=0)` (R87, R102, D7). -/
def respSentinel : Response := { stream := [], word := respWord statusDone causeNone false 0 }

/-- The stream of `PACK`, then `(DONE, valid=0, value=0)` (R111). -/
def respStream (out : List Byte) : Response := { stream := out, word := respWord statusDone causeNone false 0 }

/-- `(FAULTED, cause=c, 0, 0)` (R190). -/
def respFaulted (c : BitVec 3) : Response := { stream := [], word := respWord statusFaulted c false 0 }

/-- `(REFUSED, 0, 0, 0)` (R191). -/
def respRefused : Response := { stream := [], word := respWord statusRefused causeNone false 0 }

end Sys2Proof.Machine
end

