-- ==== Sys2Proof/Machine/Operands.lean ====
section
/-! DEFINITION. Operand computations: the range test, cell addresses, the nibble split, the packed-bit sum, address bytes
(spec/00_scope.md R16, spec/20_memory.md R51, R52, spec/30_encoding.md R75 to R77). -/

namespace Sys2Proof.Machine

/-- `inrange(x, y)`: both coordinates, as integers, inside the buffer (R52, R100 (b)). -/
def inRange (c : Straps) (x y : Int) : Bool :=
  decide (0 ≤ x) && decide (x < c.width) && decide (0 ≤ y) && decide (y < c.height)

/-- The linear address of a cell: `y*W + x` (R26, R51). -/
def cellAddr (c : Straps) (x y : Nat) : Nat := y * c.width + x

/-- `W × H`, the number of cells (R26). -/
def cellCount (c : Straps) : Nat := c.width * c.height

/-- `LG = H / 8`, the number of line-groups (R8). -/
def lineGroups (c : Straps) : Nat := c.height / 8

/-- `NB = W × (H/8)`, the number of packed bytes (R8). -/
def packedCount (c : Straps) : Nat := c.width * lineGroups c

/-- The high nibble `b >> 4` (R55, R76). -/
def highNibble (b : Byte) : Nibble := (b >>> 4).setWidth 4

/-- The low nibble `b & 0xF` (R55, R76). -/
def lowNibble (b : Byte) : Nibble := (b &&& 0xF).setWidth 4

/-- The sum over the listed levels of `bit_i << i`, counting i from `i` on. No two terms share a bit, so the sum is
written as the bitwise OR (R16 (e)). -/
def sumBitsFrom : Nat → List Level → Byte
  | _, [] => 0
  | i, v :: vs => (if v then (1 : Byte) <<< i else 0) ||| sumBitsFrom (i + 1) vs

/-- `Σ bit_i << i` (R16 (e)). -/
def sumBits (vs : List Level) : Byte := sumBitsFrom 0 vs

/-- The packed byte of eight pixel values, the topmost row first: lane i is the test `!= 0` (R75, R110). -/
def packBits (pixels : List Byte) : Byte := sumBits (pixels.map fun v => v != 0)

/-- A natural reduced to a byte by `& 0xFF` (R16 (i), R143, D24). -/
def byteOf (n : Nat) : Byte := BitVec.ofNat 8 (n &&& 0xFF)

/-- An address command byte: the opcode ORed with the address, reduced to a byte (R77, R150). -/
def addressByte (opc : Byte) (a : Nat) : Byte := byteOf (opc.toNat ||| a)

/-- The DDRAM address of a cursor position: `(row << 6) | col` (R77, R151). -/
def cursorAddr (col row : Nat) : Nat := (row <<< 6) ||| col

end Sys2Proof.Machine
end

