-- ==== Sys2Proof/Machine/Wire.lean ====
section
/-! DEFINITION. The event lists of the transport, as functions of the straps and the mode, and what an event does to the
latches (spec/43_transport.md R120 to R128, R132). Nothing here reads the state: each request's list is fixed (R27). -/

namespace Sys2Proof.Machine

/-- The owned data lines in order (R12): eight in FULL, four in HALF. -/
def dataLines : Mode → List Line
  | .full => [.d0, .d1, .d2, .d3, .d4, .d5, .d6, .d7]
  | .half => [.d0, .d1, .d2, .d3]

/-- `N`, the number of data lines (R7). -/
def busWidth : Mode → Nat
  | .full => 8
  | .half => 4

/-- A delay of an OPEN parameter: no event at 0 (R132). -/
def delayOf (n : Nat) : List Event := if n = 0 then [] else [.delay n]

/-- `DriveRS(rs)` (R120). -/
def driveRS (rs : Level) : List Event := [.wr .rs rs]

/-- `DriveData(p, N)`: bit i of the payload to `D_i`, ascending, every line every time (R54, R121). -/
def driveData (m : Mode) {k : Nat} (p : BitVec k) : List Event :=
  (dataLines m).zipIdx.map fun li => .wr li.1 (p.getLsbD li.2)

/-- `Strobe()` (R74, R122), with the OPEN delays before the rise and after the fall (R132). -/
def strobe (c : Straps) : List Event :=
  delayOf c.tSetup ++ [.wr .e true, .delay Config.holdUs, .wr .e false] ++ delayOf c.tEl

/-- `PulseTransfer(rs, p, N)` (R123). -/
def pulseTransfer (c : Straps) (m : Mode) (rs : Level) {k : Nat} (p : BitVec k) : List Event :=
  driveRS rs ++ driveData m p ++ strobe c

/-- The events of `XFER rs, b`: one pulse in FULL (R124), two under one RS write in HALF (R125), then `T_POST` (R132). -/
def xferEvents (c : Straps) (m : Mode) (rs : Level) (b : Byte) : List Event :=
  match m with
  | .full => pulseTransfer c .full rs b ++ delayOf c.tPost
  | .half =>
    driveRS rs ++ driveData .half (highNibble b) ++ strobe c ++ driveData .half (lowNibble b) ++ strobe c ++
      delayOf c.tPost

/-- The events of `NIB rs, n` (R126), then `T_POST` (R132). -/
def nibEvents (c : Straps) (rs : Level) (n : Nibble) : List Event :=
  pulseTransfer c .half rs n ++ delayOf c.tPost

/-- The six nibbles of the half-width initialisation (R127). -/
def init4Nibbles (c : Straps) : List Nibble := List.replicate 5 0 ++ [c.fs4Nibble]

/-- The events of `INIT4`: six pulses with RS low (R127). They are pulse transfers, not `NIB` requests, so `T_POST` does
not follow them (R132, log 9). -/
def init4Events (c : Straps) : List Event := (init4Nibbles c).flatMap fun n => pulseTransfer c .half false n

/-- The log entries of `INIT4` (R127, R130). -/
def init4Log (c : Straps) : List LogEntry := (init4Nibbles c).map (LogEntry.nib false)

/-- All owned lines in the order of `Open` and `Rel`: RS, E, then the data lines (R128, R210). -/
def ownedLines (m : Mode) : List Line := .rs :: .e :: dataLines m

/-- The `Open` events of reset (R210 step 4). -/
def openEvents (m : Mode) : List Event := (ownedLines m).map .openOut

/-- The `Rel` events of `RELEASE` (R128). -/
def releaseEvents (m : Mode) : List Event := (ownedLines m).map .rel

/-- All latches 0 (R210 step 4). -/
def lowLatches : Latches :=
  { rs := false, e := false, d0 := false, d1 := false, d2 := false, d3 := false, d4 := false, d5 := false, d6 := false,
    d7 := false }

/-- Reads one latch (R14 `line[l]`). -/
def Latches.get (s : Latches) : Line → Level
  | .rs => s.rs
  | .e => s.e
  | .d0 => s.d0
  | .d1 => s.d1
  | .d2 => s.d2
  | .d3 => s.d3
  | .d4 => s.d4
  | .d5 => s.d5
  | .d6 => s.d6
  | .d7 => s.d7

/-- Writes one latch (R14 `line[l] <- v`). -/
def Latches.set (s : Latches) (l : Line) (v : Level) : Latches :=
  match l with
  | .rs => { s with rs := v }
  | .e => { s with e := v }
  | .d0 => { s with d0 := v }
  | .d1 => { s with d1 := v }
  | .d2 => { s with d2 := v }
  | .d3 => { s with d3 := v }
  | .d4 => { s with d4 := v }
  | .d5 => { s with d5 := v }
  | .d6 => { s with d6 := v }
  | .d7 => { s with d7 := v }

/-- An event's effect on the latches: `Wr` writes its line's latch (R14, R15); `Open` leaves it at 0 (R210 step 4); a
release writes nothing (R128). -/
def Latches.apply (s : Latches) : Event → Latches
  | .openOut l => s.set l false
  | .wr l v => s.set l v
  | .delay _ => s
  | .rel _ => s

/-- The latches after a list of events. -/
def Latches.replay (s : Latches) (es : List Event) : Latches := es.foldl Latches.apply s

end Sys2Proof.Machine
end

