-- ==== Sys2Proof/Machine/Boot.lean ====
section
/-! DEFINITION. The reset sequence of spec/70_reset_and_hazards.md R210 as functions of the straps: the six checks, and the
value of each piece of state when the sequence has finished (spec/10_state.md R38 to R40). -/

namespace Sys2Proof.Machine

/-- The six configuration checks in order; the number of the first that fails (R181). -/
def configFailure (p : Straps) : Option Nat :=
  if p.dataWidth ≠ 4 ∧ p.dataWidth ≠ 8 then some 1
  else if p.displayLines ≠ 1 ∧ p.displayLines ≠ 2 then some 2
  else if p.fontHeight ≠ 8 ∧ p.fontHeight ≠ 10 then some 3
  else if p.fontVariant < 0 ∨ 3 < p.fontVariant then some 4
  else if (p.nData : Int) ≠ p.dataWidth then some 5
  else if p.widthStrap < 1 ∨ p.heightStrap < 1 ∨ p.heightStrap % 8 ≠ 0 ∨ 512 < p.widthStrap ∨ 512 < p.heightStrap then
    some 6
  else none

/-- The fault register after a failed check (R39, R210 step 2). -/
def configFault (k : Nat) : FaultReg := { cause := causeConfiguration, info := BitVec.ofNat 32 k }

/-- The capability that `DATAWIDTH` selects (R22, R210 step 3). -/
def bootMode (p : Straps) : Mode := if p.dataWidth = 8 then .full else .half

/-- The events of reset: the `Open` events (R210 step 4), then in HALF mode those of `INIT4` (step 7). -/
def bootTrace (p : Straps) : List Event :=
  match bootMode p with
  | .full => openEvents .full
  | .half => openEvents .half ++ init4Events p

/-- The log after reset: the six nibbles in HALF mode (R38, R210 step 7). -/
def bootLog (p : Straps) : List LogEntry :=
  match bootMode p with
  | .full => []
  | .half => init4Log p

/-- The latches after reset: 0 after `Open` (R210 step 4), then what `INIT4` leaves in HALF mode (R38). -/
def bootLatches (p : Straps) : Latches := lowLatches.replay (bootTrace p)

/-- `init4_done` after reset (R38). -/
def bootInit4Done (p : Straps) : Bool :=
  match bootMode p with
  | .full => false
  | .half => true

/-- The composition of `displayFunction` from the four construction choices (R144). R142 defines the encoders on the legal
choices only: on any other the model's encoders are OPEN too (DESIGN CHOICE, log 4). -/
def composeDisplayFunction (p : Straps) : Byte :=
  Config.fsDw p.dataWidth ||| Config.fsLines p.displayLines ||| Config.fsFont p.fontHeight |||
    Config.fsVariant p.fontVariant

/-- The shadow registers at construction: their documented defaults, and the composed function-set register (R40). -/
def defaultClient (p : Straps) : ClientRegs :=
  { entryMode := Config.entryModeDefault
    displayControl := Config.displayControlDefault
    modePower := Config.modePowerDefault
    displayFunction := composeDisplayFunction p }

end Sys2Proof.Machine
end

