-- ==== Sys2Proof/Machine/Memory.lean ====
section
/-! DEFINITION. The cells of the pixel buffer as a list of (address, byte) pairs in one canonical form: addresses strictly
rising, no entry equal to what an unlisted address reads as (spec/20_memory.md R51; spec/10_state.md R26, R38). -/

namespace Sys2Proof.Machine

/-- Cells by linear address. -/
abbrev Memory := List Host.Cell

/-- What an unlisted cell reads as: 0, the reset contents of every cell (R38). -/
def unlistedCell : Byte := 0

/-- `MemRead(a, 1)` of a listed or unlisted cell (R14). -/
def Memory.read : Memory → Nat → Byte
  | [], _ => unlistedCell
  | (b, u) :: m, a => if b = a then u else Memory.read m a

/-- One cell put before the cells that follow it; the value an unlisted cell reads as is not listed. -/
def consCell (a : Nat) (v : Byte) (m : Memory) : Memory :=
  if v = unlistedCell then m else (a, v) :: m

/-- `MemWrite(a, 1, v)`, keeping the canonical form (R14). -/
def Memory.write : Memory → Nat → Byte → Memory
  | [], a, v => consCell a v []
  | (b, u) :: m, a, v =>
    if a < b then consCell a v ((b, u) :: m)
    else if a = b then consCell a v m
    else (b, u) :: Memory.write m a v

/-- Canonical form from an address on: addresses at least `lo` and strictly rising, no value an unlisted cell reads as. -/
def wfFrom : Nat → Memory → Bool
  | _, [] => true
  | lo, (a, v) :: m => decide (lo ≤ a) && (v != unlistedCell && wfFrom (a + 1) m)

/-- The canonical form holds. -/
def Memory.wf (m : Memory) : Bool := wfFrom 0 m

/-- Every listed address lies below `n`. -/
def Memory.below (n : Nat) (m : Memory) : Bool := m.all fun c => decide (c.1 < n)

end Sys2Proof.Machine
end

