-- ==== Sys2Proof/Machine/State.lean ====
section
/-! DEFINITION. The machine's state, the reasons a step can stop, and reset (spec/10_state.md; spec/70_reset_and_hazards.md
R210). -/

namespace Sys2Proof.Machine

/-- The state: the block's (R20 to R28), the client layer's (R30 to R34), the observations `T`, `X` and the responses (R19,
R29), the straps (R7 to R11), and the host's inputs not yet taken (log 1). -/
structure State where
  /-- The straps sampled at reset, constant afterwards (R7 to R11). -/
  straps : Straps
  /-- The lifecycle state (R23). -/
  life : Life
  /-- The fault register (R24). -/
  fault : FaultReg
  /-- The transport capability (R22). -/
  mode : Mode
  /-- The flag `init4_done` (R25). -/
  init4Done : Bool
  /-- The line output latches (R21). -/
  line : Latches
  /-- The pixel buffer `PB` (R26). -/
  pb : Memory
  /-- The sequencer's step index `seq.pc`; `none` is IDLE (R27). -/
  seqPc : Option Nat
  /-- The packer's cursor `pk = (L, x)`; `none` is IDLE (R28). -/
  pk : Option (Nat × Nat)
  /-- The trace `T` (R29). -/
  trace : List Event
  /-- The logical log `X` (R29, R130). -/
  log : List LogEntry
  /-- The client layer's shadow registers (R30 to R34). -/
  client : ClientRegs
  /-- The responses returned so far, oldest first (R19, R87). -/
  responses : List Response
  /-- The host's inputs not yet taken, next first (R18, R62, log 1). -/
  pending : List HostInput
deriving DecidableEq, Repr

/-- The faults that stop the model. The spec's own fault classes (R180) are NOT here: taking one is a next state (R190). -/
inductive Fault where
  /-- Raised by a pixel-cell access at an address outside 0..W×H−1, which the spec says does not exist (R14, R51). No
  request reaches it: the range test and the packer's loop bounds keep every access inside (R52, R58). Safe: the machine
  stops where the spec defines no access. -/
  | noSuchCell (a : Nat)
deriving DecidableEq, Repr

/-- What the model refuses. -/
inductive Refusal where
  /-- Raised by a dispatch arm of an instruction that has no meaning yet. Safe: nothing is claimed of it. No arm uses it. -/
  | notModelled (mnemonic : String)
  /-- Raised by every request presented while `seq.pc` is not IDLE: the host has no such move (R67, R133; U4 of
  spec/93_implementation_defined.md says the model refuses). No state reached from reset has it. Safe: nothing is
  claimed of an interleaved request (log 7). -/
  | requestWhileBusy
deriving DecidableEq, Repr

/-- Reset with the given straps: the sequence of R210. A failed check leaves the values of R39, otherwise those of R38; the
shadow registers are as R40 says. Fields to which R39 gives no meaning are low, FULL and empty (DESIGN CHOICE, log 5). -/
def State.construct (p : Straps) : State :=
  match configFailure p with
  | some k =>
    { straps := p, life := .fault, fault := configFault k, mode := .full, init4Done := false, line := lowLatches, pb := [],
      seqPc := none, pk := none, trace := [], log := [], client := defaultClient p, responses := [], pending := [] }
  | none =>
    { straps := p, life := .ready, fault := noFault, mode := bootMode p, init4Done := bootInit4Done p,
      line := bootLatches p, pb := [], seqPc := none, pk := none, trace := bootTrace p, log := bootLog p,
      client := defaultClient p, responses := [], pending := [] }

/-- The machine right after reset, with the straps of `Config.resetStraps` (R38, R210; DESIGN CHOICE of straps, log 3). -/
def State.reset : State := State.construct Config.resetStraps

end Sys2Proof.Machine
end

