-- ==== Sys2Proof/Machine/Client.lean ====
section
/-! DEFINITION. The client layer: what each procedure does to the shadow registers and the request words it expands into
(spec/44_protocol_client.md). -/

namespace Sys2Proof.Machine

/-- `C.r` (R30). -/
def shadow (c : ClientRegs) : ShadowReg → Byte
  | .entryMode => c.entryMode
  | .displayControl => c.displayControl
  | .modePower => c.modePower
  | .displayFunction => c.displayFunction

/-- `C.r <- v` (R30). -/
def setShadow (c : ClientRegs) (r : ShadowReg) (v : Byte) : ClientRegs :=
  match r with
  | .entryMode => { c with entryMode := v }
  | .displayControl => { c with displayControl := v }
  | .modePower => { c with modePower := v }
  | .displayFunction => { c with displayFunction := v }

/-- `OPC_r`, the command opcode of a shadow register (R141, R143). -/
def commandOf : ShadowReg → Byte
  | .entryMode => Config.entryModeCmd
  | .displayControl => Config.displayControlCmd
  | .modePower => Config.modePowerCmd
  | .displayFunction => Config.functionSetCmd

/-- The byte `transmit(r)` sends: `(OPC_r | C.r) & 0xFF` (R143). -/
def registerByte (c : ClientRegs) (r : ShadowReg) : Byte := commandOf r ||| shadow c r

/-- The shadow registers after a procedure (R165). DESIGN CHOICE: `SETFLAG` and `CLRFLAG` take any byte as mask, so a
register may come to hold bits of no named flag (R30, log 16), and may name `displayFunction`, which R34 says no named
operation changes after construction (log 17). -/
def clientAfter (p : Straps) (c : ClientRegs) : Pseudo → ClientRegs
  | .cmd _ => c
  | .data _ => c
  | .bringup => defaultClient p
  | .setFlag r m => setShadow c r (shadow c r ||| m)
  | .clrFlag r m => setShadow c r (shadow c r &&& ~~~m)
  | .setCg _ => c
  | .setDd _ => c
  | .setPos _ _ => c
  | .finalize => setShadow c .displayControl (shadow c .displayControl &&& ~~~Config.fDisplayOn)

/-- The requests a procedure issues, from the shadow registers AFTER it (R146, R165). -/
def expansion (c : ClientRegs) : Pseudo → List Instr
  | .cmd b => [.xfer false b]
  | .data b => [.xfer true b]
  | .bringup =>
    [.xfer false (registerByte c .displayFunction), .xfer false (registerByte c .displayControl),
      .xfer false Config.clearDisplay, .xfer false Config.returnHome, .xfer false (registerByte c .entryMode),
      .xfer false (registerByte c .modePower)]
  | .setFlag r _ => [.xfer false (registerByte c r)]
  | .clrFlag r _ => [.xfer false (registerByte c r)]
  | .setCg a => [.xfer false (addressByte Config.setCgramAddr a)]
  | .setDd a => [.xfer false (addressByte Config.setDdramAddr a)]
  | .setPos col row => [.xfer false (addressByte Config.setDdramAddr (cursorAddr col row))]
  | .finalize => [.xfer false Config.clearDisplay, .xfer false (registerByte c .displayControl)]

/-- Cursor on (R148). -/
def cursorOn : Pseudo := .setFlag .displayControl Config.fCursorOn

/-- Cursor off (R148). -/
def cursorOff : Pseudo := .clrFlag .displayControl Config.fCursorOn

/-- Blink on (R148). -/
def blinkOn : Pseudo := .setFlag .displayControl Config.fBlinkOn

/-- Blink off (R148). -/
def blinkOff : Pseudo := .clrFlag .displayControl Config.fBlinkOn

/-- Display on (R148). -/
def displayOn : Pseudo := .setFlag .displayControl Config.fDisplayOn

/-- Display off (R148). -/
def displayOff : Pseudo := .clrFlag .displayControl Config.fDisplayOn

/-- The right-shift flag set in its owning register (R148, R161). -/
def shiftRightOn : Pseudo := .setFlag Config.shiftOwner Config.fShiftRight

/-- The right-shift flag cleared in its owning register (R148, R161). -/
def shiftRightOff : Pseudo := .clrFlag Config.shiftOwner Config.fShiftRight

/-- The left-shift flag set in its owning register (R148). -/
def shiftLeftOn : Pseudo := .setFlag Config.shiftOwner Config.fShiftLeft

/-- The left-shift flag cleared in its owning register (R148). -/
def shiftLeftOff : Pseudo := .clrFlag Config.shiftOwner Config.fShiftLeft

/-- Graphics mode (R149). -/
def graphicsMode : Pseudo := .setFlag .modePower Config.fGraphics

/-- Character mode (R149). -/
def characterMode : Pseudo := .clrFlag .modePower Config.fGraphics

/-- DC-DC on (R149). -/
def dcdcOn : Pseudo := .setFlag .modePower Config.fDcdcOn

/-- DC-DC off (R149). -/
def dcdcOff : Pseudo := .clrFlag .modePower Config.fDcdcOn

/-- `setPixel(x, y, v)` of the graphics wrapper is `PSET x, y, v` (R173). -/
def setPixel (x y : Int) (v : Byte) : Instr := .pset x y v

/-- `getPixel(x, y)` of the graphics wrapper is `PGET x, y`, and returns its result (R173). -/
def getPixel (x y : Int) : Instr := .pget x y

/-- One client procedure: the shadow registers are updated and its requests come next in the host's order (R147, R165, log
2). The block's own state is not touched. -/
def runPseudo (p : Pseudo) (s : State) : State :=
  { s with
    client := clientAfter s.straps s.client p
    pending := (expansion (clientAfter s.straps s.client p) p).map (fun i => .word (encode i)) ++ s.pending }

end Sys2Proof.Machine
end

