-- ==== Sys2Proof/Machine/Ops.lean ====
section
/-! DEFINITION. The named operations every meaning is made of: emitting events, answering, accepting a request, taking a
fault, and the pixel-cell accesses. There is no return from a fault (spec/60_exceptions.md R192), so none stands beside
`raise`. -/

namespace Sys2Proof.Machine

/-! ## The sequencer (R27, R133) -/

/-- Emits one event: it is appended to `T`, a write changes its latch, and `seq.pc` advances by exactly 1 (R14, R27). -/
def emit (s : State) (e : Event) : State :=
  { s with trace := s.trace ++ [e], line := s.line.apply e, seqPc := s.seqPc.map (· + 1) }

/-- Emits a list of events in order (R133). -/
def emitAll (s : State) (es : List Event) : State := es.foldl emit s

/-- Appends entries to the logical log `X` (R130). -/
def logAll (s : State) (xs : List LogEntry) : State := { s with log := s.log ++ xs }

/-- `pc <- 0`: a request that produces events starts (R133). -/
def startSeq (s : State) : State := { s with seqPc := some 0 }

/-- `pc <- IDLE`: the event list is exhausted (R27, R133). -/
def stopSeq (s : State) : State := { s with seqPc := none }

/-- The response is returned (R87). -/
def respond (s : State) (r : Response) : State := { s with responses := s.responses ++ [r] }

/-- Performs one event list from start to end (R27, R133). -/
def perform (s : State) (es : List Event) : State := stopSeq (emitAll (startSeq s) es)

/-! ## Accepting a request and taking a fault (R188, R190, R191) -/

/-- Presents a request: it is accepted only while `seq.pc` is IDLE (R133; otherwise the host has no such move, R67), and
refused with no effect but the response unless `life = READY` (R188 (1), R191). -/
def accept (s : State) (body : State → Host.Outcome State Fault Refusal) : Host.Outcome State Fault Refusal :=
  match s.seqPc with
  | some _ => .refused .requestWhileBusy
  | none =>
    match s.life with
    | .ready => body s
    | .fault => .next (respond s respRefused)
    | .released => .next (respond s respRefused)

/-- `raise F(info)` for a fatal class with cause `c`: fault entry (R190). The first fault is kept (R24). -/
def raise (s : State) (c : BitVec 3) (info : BitVec 32) : State :=
  respond
    { s with
      fault := if s.fault.cause = causeNone then { cause := c, info := info } else s.fault
      life := .fault
      seqPc := none
      pk := none }
    (respFaulted c)

/-- An illegal word is presented: IllegalRequest, with the word as info (R84, R184). -/
def illegalRequest (w : ReqWord) (s : State) : Host.Outcome State Fault Refusal :=
  accept s fun s => .next (raise s causeIllegal w)

/-- An operation the strapped capability lacks: UnimplementedCapability, with the request word as info (R183). -/
def unimplemented (s : State) (w : ReqWord) : State := raise s causeCapability w

/-! ## Pixel cells (R14, R51) -/

/-- `MemRead(a, 1)`, defined only for `0 ≤ a < W×H` (R14). -/
def readCell (s : State) (a : Nat) : Except Fault Byte :=
  if a < cellCount s.straps then .ok (Memory.read s.pb a) else .error (.noSuchCell a)

/-- `MemWrite(a, 1, v)`, defined only for `0 ≤ a < W×H` (R14). -/
def writeCell (s : State) (a : Nat) (v : Byte) : Except Fault State :=
  if a < cellCount s.straps then .ok { s with pb := Memory.write s.pb a v } else .error (.noSuchCell a)

/-- Reads cells in order. -/
def readCells (s : State) : List Nat → Except Fault (List Byte)
  | [] => .ok []
  | a :: as =>
    match readCell s a with
    | .error f => .error f
    | .ok v =>
      match readCells s as with
      | .error f => .error f
      | .ok vs => .ok (v :: vs)

/-- Writes one value to cells in order. -/
def fillCells (s : State) (v : Byte) : List Nat → Except Fault State
  | [] => .ok s
  | a :: as =>
    match writeCell s a v with
    | .error f => .error f
    | .ok s' => fillCells s' v as

/-- `PB[x, y]`, the stored byte of a pixel (R14): what statements read a cell by. -/
def pixel (s : State) (x y : Nat) : Byte := Memory.read s.pb (cellAddr s.straps x y)

/-! ## One byte on the bus (R124, R125), shared by `XFER` and `REFRESH` -/

/-- The steps of `XFER rs, b` in the state's mode: its events, then its log entry (R124, R125, R130). -/
def transferByte (s : State) (rs : Level) (b : Byte) : State :=
  logAll (emitAll s (xferEvents s.straps s.mode rs b)) [.byte rs b]

end Sys2Proof.Machine
end

