-- ==== Sys2Proof/Machine/Packer.lean ====
section
/-! DEFINITION. The display-RAM packer (spec/42_packer.md). The stream is computed from `PB` each time (R113). -/

namespace Sys2Proof.Machine

/-- The addresses of the eight cells of a packed byte: column x, rows r to r+7 (R110). -/
def packAddrs (c : Straps) (x r : Nat) : List Nat := (List.range 8).map fun i => cellAddr c x (r + i)

/-- `PackByte(x, r)` (R110). -/
def packByte (s : State) (x r : Nat) : Except Fault Byte :=
  match readCells s (packAddrs s.straps x r) with
  | .ok vs => .ok (packBits vs)
  | .error f => .error f

/-- The cursor `pk = (L, x)` of the next byte; it starts at (0, 0) (R28). -/
def cursor (s : State) : Nat × Nat := s.pk.getD (0, 0)

/-- The cursor's step: x first, and L when x wraps from W−1 to 0 (R28). -/
def nextCursor (c : Straps) (p : Nat × Nat) : Nat × Nat :=
  if p.2 + 1 < c.width then (p.1, p.2 + 1) else (p.1 + 1, 0)

/-- `pk <- (0, 0)` (R28). -/
def startCursor (s : State) : State := { s with pk := some (0, 0) }

/-- Steps the cursor (R28). -/
def advanceCursor (s : State) : State := { s with pk := some (nextCursor s.straps (cursor s)) }

/-- `pk <- IDLE` (R28). -/
def stopCursor (s : State) : State := { s with pk := none }

/-- The packed byte at the cursor: `PackByte(x, L*8)` (R111). -/
def packAtCursor (s : State) : Except Fault Byte := packByte s (cursor s).2 ((cursor s).1 * 8)

/-- The next `n` bytes of the stream and the state with the cursor past them (R111). -/
def packLoop : Nat → State → Except Fault (List Byte × State)
  | 0, s => .ok ([], s)
  | n + 1, s =>
    match packAtCursor s with
    | .error f => .error f
    | .ok p =>
      match packLoop n (advanceCursor s) with
      | .error f => .error f
      | .ok (out, s') => .ok (p :: out, s')

/-- `PACK`: the stream of W × (H/8) bytes, line-groups outer, columns inner (R111). -/
def execPack (s : State) : Host.Outcome State Fault Refusal :=
  accept s fun s =>
    match packLoop (packedCount s.straps) (startCursor s) with
    | .ok (out, s') => .next (respond (stopCursor s') (respStream out))
    | .error f => .fault f

end Sys2Proof.Machine
end

