-- ==== Sys2Proof/Machine/Graphics.lean ====
section
/-! DEFINITION. The graphics path (spec/45_graphics.md). -/

namespace Sys2Proof.Machine

/-- The next `n` bytes of a refresh: each packed byte at the cursor, sent as `XFER 1, p` (R171). -/
def refreshLoop : Nat → State → Except Fault State
  | 0, s => .ok s
  | n + 1, s =>
    match packAtCursor s with
    | .error f => .error f
    | .ok p => refreshLoop n (advanceCursor (transferByte s true p))

/-- `REFRESH`: every byte of the packed stream, in order, as a data transfer (R171). -/
def execRefresh (s : State) : Host.Outcome State Fault Refusal :=
  accept s fun s =>
    match refreshLoop (packedCount s.straps) (startCursor (startSeq s)) with
    | .ok s' => .next (respond (stopCursor (stopSeq s')) respDone)
    | .error f => .fault f

end Sys2Proof.Machine
end

