-- ==== Sys2Proof/Machine/PixelBuffer.lean ====
section
/-! DEFINITION. The pixel buffer requests (spec/41_pixelbuffer.md). -/

namespace Sys2Proof.Machine

/-- `PSET x, y, v`: the cell in range is written, out of range nothing is (R101). -/
def execPset (x y : Int) (v : Byte) (s : State) : Host.Outcome State Fault Refusal :=
  accept s fun s =>
    if inRange s.straps x y then
      match writeCell s (cellAddr s.straps x.toNat y.toNat) v with
      | .ok s' => .next (respond s' respDone)
      | .error f => .fault f
    else .next (respond s respDone)

/-- `PGET x, y`: the cell in range, the sentinel out of range (R102). -/
def execPget (x y : Int) (s : State) : Host.Outcome State Fault Refusal :=
  accept s fun s =>
    if inRange s.straps x y then
      match readCell s (cellAddr s.straps x.toNat y.toNat) with
      | .ok v => .next (respond s (respValue v))
      | .error f => .fault f
    else .next (respond s respSentinel)

/-- `PCLR`: every cell 0 (R103). -/
def execPclr (s : State) : Host.Outcome State Fault Refusal :=
  accept s fun s =>
    match fillCells s 0 (List.range (cellCount s.straps)) with
    | .ok s' => .next (respond s' respDone)
    | .error f => .fault f

end Sys2Proof.Machine
end

