-- ==== Sys2Proof/Machine/Transport.lean ====
section
/-! DEFINITION. The bus transport requests (spec/43_transport.md). Where the capability lacks a request, the fault is taken
before its first event (R129 (b), R183). -/

namespace Sys2Proof.Machine

/-- `XFER rs, b` (R124 in FULL mode, R125 in HALF mode). -/
def execXfer (rs : Level) (b : Byte) (s : State) : Host.Outcome State Fault Refusal :=
  accept s fun s => .next (respond (stopSeq (transferByte (startSeq s) rs b)) respDone)

/-- `NIB rs, n`, HALF mode only (R126). -/
def execNib (rs : Level) (n : Nibble) (s : State) : Host.Outcome State Fault Refusal :=
  accept s fun s =>
    match s.mode with
    | .full => .next (unimplemented s (encode (.nib rs n)))
    | .half => .next (respond (logAll (perform s (nibEvents s.straps rs n)) [.nib rs n]) respDone)

/-- The micro-sequence of `INIT4`, which reset performs too: the six nibbles, then `init4_done <- 1` (R127, R210). -/
def init4Sequence (s : State) : State :=
  { logAll (perform s (init4Events s.straps)) (init4Log s.straps) with init4Done := true }

/-- `INIT4`, HALF mode only (R127). -/
def execInit4 (s : State) : Host.Outcome State Fault Refusal :=
  accept s fun s =>
    match s.mode with
    | .full => .next (unimplemented s (encode .init4))
    | .half => .next (respond (init4Sequence s) respDone)

/-- `RELEASE`: a release marker for each owned line, then `life <- RELEASED` (R128). -/
def execRelease (s : State) : Host.Outcome State Fault Refusal :=
  accept s fun s =>
    .next (respond { perform s (releaseEvents s.mode) with life := .released } respDone)

end Sys2Proof.Machine
end

