-- ==== Sys2Proof/Machine/Dispatch.lean ====
section
/-! DEFINITION. One arm per request. -/

namespace Sys2Proof.Machine

def exec (i : Instr) (s : State) : Host.Outcome State Fault Refusal :=
  match i with
  | .pset x y v => Sys2Proof.Machine.execPset x y v s
  | .pget x y => Sys2Proof.Machine.execPget x y s
  | .pclr => Sys2Proof.Machine.execPclr s
  | .pack => Sys2Proof.Machine.execPack s
  | .xfer rs b => Sys2Proof.Machine.execXfer rs b s
  | .nib rs n => Sys2Proof.Machine.execNib rs n s
  | .init4 => Sys2Proof.Machine.execInit4 s
  | .release => Sys2Proof.Machine.execRelease s
  | .refresh => Sys2Proof.Machine.execRefresh s

end Sys2Proof.Machine
end

