-- ==== Sys2Proof/Machine/Request.lean ====
section
/-! DEFINITION. Taking the host's next input, and running it: what `step` calls. -/

namespace Sys2Proof.Machine

/-- A request word is presented: it is decoded, an illegal word raises IllegalRequest and a legal one is executed; both
pass the examination of `life` first (R86, R184, R188). -/
def runWord (w : ReqWord) (s : State) : Host.Outcome State Fault Refusal :=
  match decode w with
  | .request i => exec i s
  | .illegal _ => illegalRequest w s

/-- Runs one input of the host (R62, R165). -/
def runInput (h : HostInput) (s : State) : Host.Outcome State Fault Refusal :=
  match h with
  | .word w => runWord w s
  | .pseudo p => .next (runPseudo p s)

/-- Takes the host's next input, if there is one. With none the machine waits: nothing changes (log 1). -/
def takeInput (s : State) : Host.Outcome State Fault Refusal :=
  match s.pending with
  | [] => .next s
  | h :: rest => runInput h { s with pending := rest }

/-- The host presents a word of `nbits` bits next (log 1). -/
def presentWord (s : State) (nbits w : Nat) : State :=
  { s with pending := .word (BitVec.ofNat 32 (w % 2 ^ nbits)) :: s.pending }

end Sys2Proof.Machine
end

