-- ==== Sys2Proof/Machine/Observe.lean ====
section
/-! DEFINITION. The derived views of the trace: the sample list (spec/43_transport.md R131), the samples a logical transfer
stands for (R131, spec/20_memory.md R57), and the counts of R134. No rule reads them (R19). -/

namespace Sys2Proof.Machine

/-- The payload on the data lines: `Σ line[D_i] << i` over the owned lines (R131). -/
def busPayload (m : Mode) (l : Latches) : Byte := sumBits ((dataLines m).map l.get)

/-- The sample taken when the strobe rises (R131). -/
def sampleOf (m : Mode) (l : Latches) : Sample := { rs := l.rs, payload := busPayload m l, width := busWidth m }

/-- The sample an event takes: one for `Wr(E,1)`, none for any other (R131). -/
def sampleAt (m : Mode) (l : Latches) : Event → List Sample
  | .wr .e true => [sampleOf m l]
  | _ => []

/-- The samples of a list of events, from the latches as they stand before it (R131). -/
def samplesFrom (m : Mode) : Latches → List Event → List Sample
  | _, [] => []
  | l, e :: es => sampleAt m l e ++ samplesFrom m (l.apply e) es

/-- The sample list of a trace, whose lines start low (R131, R210). -/
def samples (m : Mode) (t : List Event) : List Sample := samplesFrom m lowLatches t

/-- The samples of one logical transfer (R57, R131). -/
def entrySamples (m : Mode) : LogEntry → List Sample
  | .byte rs b =>
    match m with
    | .full => [{ rs := rs, payload := b, width := 8 }]
    | .half =>
      [{ rs := rs, payload := (highNibble b).setWidth 8, width := 4 },
        { rs := rs, payload := (lowNibble b).setWidth 8, width := 4 }]
  | .nib rs n => [{ rs := rs, payload := n.setWidth 8, width := 4 }]

/-- The number of writes of a line in a list of events (R134). -/
def countWrites (l : Line) (es : List Event) : Nat :=
  es.countP fun e => match e with
    | .wr k _ => k == l
    | _ => false

/-- The number of `Wr` events in a list (R134). -/
def countWr (es : List Event) : Nat :=
  es.countP fun e => match e with
    | .wr _ _ => true
    | _ => false

/-- The number of pulses in a list of events: the rises of the strobe (R134). -/
def countPulses (es : List Event) : Nat :=
  es.countP fun e => match e with
    | .wr .e true => true
    | _ => false

/-- The sum of the delays in a list of events: the least duration in microseconds (R134). -/
def leastDuration : List Event → Nat
  | [] => 0
  | .delay n :: es => n + leastDuration es
  | _ :: es => leastDuration es

end Sys2Proof.Machine
end

