-- ==== Sys2Proof/Safety.lean ====
section
/-! DEFINITION. What counts as a safe state and a safe trace, in the terms the statements use. -/

namespace Sys2Proof.Machine

/-- The strobe contract of a trace (R122, R131, R220, R236): every `Wr(E,1)` is followed at once by a delay of at least
1 microsecond and at least `T_EH_MIN`, and then by `Wr(E,0)`, so that nothing is written while the strobe is high; the
strobe is never lowered otherwise. -/
def wellPulsed : List Event → Bool
  | [] => true
  | .wr .e true :: .delay n :: .wr .e false :: es => 
    decide (1 ≤ n) && (decide (Config.tEhMinNs ≤ n * 1000) && wellPulsed es)
  | .wr .e _ :: _ => false
  | _ :: es => wellPulsed es

/-- The data latches that HALF mode does not own are low (R21, log 6). -/
def upperLinesLow (l : Latches) : Bool := !l.d4 && !l.d5 && !l.d6 && !l.d7

/-- What holds of the machine between steps. It rules out the states no run reaches. -/
structure BlockInv (s : State) : Prop where
  /-- Between requests the sequencer and the cursor are IDLE (R27, R28). -/
  idle : s.seqPc = none ∧ s.pk = none
  /-- The pixel buffer is in canonical form and holds only cells of 0..W×H−1 (R26). -/
  cells : Memory.wf s.pb = true ∧ Memory.below (cellCount s.straps) s.pb = true
  /-- A fault is recorded exactly in FAULT (R23, R24, R190). -/
  recorded : s.life = .fault ↔ s.fault.cause ≠ causeNone
  /-- The recorded cause is one of R24's codes, and never OutOfRangeAccess (R182). -/
  causes : s.fault.cause = causeNone ∨ s.fault.cause = causeConfiguration ∨ s.fault.cause = causeCapability ∨
    s.fault.cause = causeIllegal
  /-- ConfigurationError is recorded exactly when a strap check fails (R181). -/
  configured : s.fault.cause = causeConfiguration ↔ configFailure s.straps ≠ none
  /-- The mode is the one `DATAWIDTH` selected (R22). -/
  modeFixed : configFailure s.straps = none → s.mode = bootMode s.straps
  /-- Each latch holds the level last written to its line (R21). -/
  latched : s.line = lowLatches.replay s.trace
  /-- The strobe is low between requests (R74). -/
  strobeLow : s.line.e = false
  /-- In HALF mode only four data lines are driven (R7, R21). -/
  halfLines : s.mode = .half → upperLinesLow s.line = true
  /-- `init4_done` is 0 in FULL mode, and 1 in HALF mode once reset has passed (R25, R222). -/
  initDone : (s.mode = .full → s.init4Done = false) ∧
    (configFailure s.straps = none → s.mode = .half → s.init4Done = true)
  /-- The strobe contract holds of the whole trace (R220). -/
  pulses : wellPulsed s.trace = true

/-- The samples of the trace are those of the logged transfers, in order: the bus carries what the log says (R29, R131). -/
def SamplesMatchLog (s : State) : Prop := samples s.mode s.trace = s.log.flatMap (entrySamples s.mode)

/-- An idle block in READY: the precondition of every request (R100 (a), R129 (a), R133). -/
abbrev Accepting (s : State) : Prop := s.seqPc = none ∧ s.life = .ready

/-- The three OPEN delays at their default 0 (R9, R132). -/
abbrev DefaultTiming (c : Straps) : Prop := c.tSetup = 0 ∧ c.tEl = 0 ∧ c.tPost = 0

/-- `OP` of a word, as a number (R78). -/
def opNumber (w : ReqWord) : Nat := w.toNat / 2 ^ 28

/-- The illegal words of R84, read off the word as a number: `OP` is `w / 2^28`, the fields of R79 to R81 are remainders of
quotients. Written apart from the decoder. -/
abbrev IllegalWord (w : ReqWord) : Prop :=
  opNumber w = 0 ∨ 10 ≤ opNumber w ∨ (opNumber w = 2 ∧ w.toNat % 2 ^ 8 ≠ 0) ∨
    ((opNumber w = 3 ∨ opNumber w = 4 ∨ opNumber w = 7 ∨ opNumber w = 8 ∨ opNumber w = 9) ∧ w.toNat % 2 ^ 28 ≠ 0) ∨
    ((opNumber w = 5 ∨ opNumber w = 6) ∧ w.toNat / 2 ^ 9 % 2 ^ 19 ≠ 0) ∨
    (opNumber w = 6 ∧ w.toNat / 2 ^ 4 % 2 ^ 4 ≠ 0)

/-- The stream the packer must produce: W × (H/8) bytes, bit i of byte L×W + x is `PB[x, 8L+i] != 0` (R75, R110, R111). -/
def IsPackedStream (s : State) (out : List Byte) : Prop :=
  out.length = s.straps.width * (s.straps.height / 8) ∧
    ∀ L x i : Nat, L < s.straps.height / 8 → x < s.straps.width → i < 8 →
      (out.getD (L * s.straps.width + x) 0).getLsbD i = (pixel s x (8 * L + i) != 0)

/-- A list of requests, one after another, as long as each answers a next state. -/
def execAll : List Instr → State → Host.Outcome State Fault Refusal
  | [], s => .next s
  | i :: is, s =>
    match exec i s with
    | .next t => execAll is t
    | .fault f => .fault f
    | .refused r => .refused r

/-- A number of steps, as long as each answers a next state. -/
def stepMany : Nat → State → Host.Outcome State Fault Refusal
  | 0, s => .next s
  | n + 1, s =>
    match step s with
    | .next t => stepMany n t
    | .fault f => .fault f
    | .refused r => .refused r

end Sys2Proof.Machine
end

