-- ==== Sys2Proof/Certificates/Slice0/Obligations.lean ====
section
/-! DEFINITION. The statements about the machine, in the order of the spec's files. -/

open Sys2Proof Sys2Proof.Machine

/-! ## The request word (spec/30_encoding.md) -/

/-- R79 to R83, R86: every request that fits its word is read back from it, with every operand value. -/
def Obligations.DecodeReadsBackEncode : Prop :=
  ∀ i : Instr, WellFormed i = true → decode (encode i) = .request i

/-- R86: a word has one meaning. What it decodes to is well formed and encodes to the very word: no bit is dropped. -/
def Obligations.EncodeReadsBackDecode : Prop :=
  ∀ (w : ReqWord) (i : Instr), decode w = .request i → WellFormed i = true ∧ encode i = w

/-- R84: the decoder rejects exactly the illegal words. -/
def Obligations.DecoderRejectsExactlyIllegalWords : Prop :=
  ∀ w : ReqWord, (∃ why, decode w = .illegal why) ↔ IllegalWord w

/-- Words written out in the spec (R88, R101, R102, R103, R111, R124 to R128, R171) decode to the requests they stand
for. -/
def Obligations.SpecWordsDecode : Prop :=
  decode 0x100C0501 = .request (.pset 3 5 1) ∧ decode 0x200C0500 = .request (.pget 3 5) ∧
    decode 0x20200000 = .request (.pget 8 0) ∧ decode 0x1801FF07 = .request (.pset (-512) 511 7) ∧
    decode 0x30000000 = .request .pclr ∧ decode 0x40000000 = .request .pack ∧
    decode 0x500001AB = .request (.xfer true 0xAB) ∧ decode 0x60000002 = .request (.nib false 0x2) ∧
    decode 0x70000000 = .request .init4 ∧ decode 0x80000000 = .request .release ∧
    decode 0x90000000 = .request .refresh

/-- R79, R80, R81: each request's word is the fields of its format, put side by side from bit 31 down. -/
def Obligations.RequestWordsFollowTheirFormats : Prop :=
  (∀ (x y : Int) (v : Byte), encode (.pset x y v) = 0x1#4 ++ BitVec.ofInt 10 x ++ BitVec.ofInt 10 y ++ v) ∧
    (∀ x y : Int, encode (.pget x y) = 0x2#4 ++ BitVec.ofInt 10 x ++ BitVec.ofInt 10 y ++ 0#8) ∧
    (∀ (rs : Level) (b : Byte), encode (.xfer rs b) = 0x5#4 ++ 0#19 ++ BitVec.ofBool rs ++ b) ∧
    (∀ (rs : Level) (n : Nibble), encode (.nib rs n) = 0x6#4 ++ 0#19 ++ BitVec.ofBool rs ++ 0#4 ++ n) ∧
    encode .pclr = 0x3#4 ++ 0#28 ∧ encode .pack = 0x4#4 ++ 0#28 ∧ encode .init4 = 0x7#4 ++ 0#28 ∧
    encode .release = 0x8#4 ++ 0#28 ∧ encode .refresh = 0x9#4 ++ 0#28

/-- R87: the fields of a response word. -/
def Obligations.ResponseWordFields : Prop :=
  ∀ (status : BitVec 4) (cause : BitVec 3) (valid : Level) (value : Byte),
    (respWord status cause valid value).extractLsb' 12 4 = status ∧
      (respWord status cause valid value).extractLsb' 9 3 = cause ∧
      (respWord status cause valid value).getLsbD 8 = valid ∧
      (respWord status cause valid value).extractLsb' 0 8 = value

/-! ## Steps (R62, R133, R188) -/

/-- R86, R133; the host's queue is the model's choice (log 1): when the host's next input is a word that decodes to a
request, the step is that request's execution, the input taken. -/
def Obligations.StepRunsDecodedRequest : Prop :=
  ∀ (s : State) (w : ReqWord) (rest : List HostInput) (i : Instr),
    s.pending = .word w :: rest → decode w = .request i → step s = exec i { s with pending := rest }

/-- Log 1 (DESIGN CHOICE): the state the host makes with `withFetchWord` runs the word's request on the state itself. -/
def Obligations.FetchedWordRunsNext : Prop :=
  ∀ (s : State) (w : Nat) (i : Instr), decodeTableWord 32 w = some i → step (s.withFetchWord 32 w) = exec i s

/-- R84, R184, R190: an illegal word in READY takes the fault IllegalRequest with the word as info; nothing else changes. -/
def Obligations.IllegalWordTakesFault : Prop :=
  ∀ (s : State) (w : ReqWord) (rest : List HostInput),
    Accepting s → s.fault.cause = 0 → s.pending = .word w :: rest → IllegalWord w →
      step s = .next
        { s with
          pending := rest
          life := .fault
          fault := { cause := 4, info := w }
          pk := none
          responses := s.responses ++ [{ stream := [], word := 0x1800 }] }

/-- R191: in FAULT and RELEASED every request, legal or not, is refused with no effect but its response. -/
def Obligations.EveryWordRefusedWhenNotReady : Prop :=
  ∀ (s : State) (w : ReqWord) (rest : List HostInput),
    s.seqPc = none → (s.life = .fault ∨ s.life = .released) → s.pending = .word w :: rest →
      step s = .next { s with pending := rest, responses := s.responses ++ [{ stream := [], word := 0x2000 }] }

/-- Log 7 (DESIGN CHOICE, from R67): a request presented while the sequencer is not IDLE is refused by the model, whatever
it is. -/
def Obligations.BusySequencerRefusesRequests : Prop :=
  ∀ (s : State) (i : Instr), s.seqPc ≠ none → exec i s = .refused .requestWhileBusy

/-- R133, R185: on an idle block no request stops the machine: each one answers a next state. In particular no pixel
access leaves the buffer (R52, R58). -/
def Obligations.EveryRequestAnswersOnIdleBlock : Prop :=
  ∀ (s : State) (i : Instr), s.seqPc = none → ∃ t, exec i s = .next t

/-- R27, R133: `seq.pc` is the index of the next event of the list: after k events it is k and exactly those are in `T`. -/
def Obligations.SequencerCountsEmittedEvents : Prop :=
  ∀ (s : State) (es : List Event) (k : Nat), k ≤ es.length →
    (emitAll (startSeq s) (es.take k)).seqPc = some k ∧
      (emitAll (startSeq s) (es.take k)).trace = s.trace ++ es.take k ∧
      (perform s es).seqPc = none ∧ (perform s es).trace = s.trace ++ es

/-- R28: the packer's cursor starts at (0, 0) and, stepped k times, points at column `k mod W` of line-group `k div W`. -/
def Obligations.CursorStepsColumnsThenLineGroups : Prop :=
  ∀ (c : Straps) (k : Nat), 0 < c.width → (nextCursor c)^[k] (0, 0) = (k / c.width, k % c.width)

/-! ## Reset (R38 to R40, R181, R210) -/

/-- R181, R39: for straps that are any integers, the first failing check decides, and reset performs no line I/O; with all six passed the block is READY. No
step raises a ConfigurationError. -/
def Obligations.ResetReportsFirstFailingCheck : Prop :=
  (∀ s t : State, step s = .next t → t.fault.cause = 1 → t.fault = s.fault) ∧
  ∀ p : Straps,
    let failed := fun k : Nat =>
      (State.construct p).life = .fault ∧ (State.construct p).fault = { cause := 1, info := BitVec.ofNat 32 k } ∧
        (State.construct p).trace = [] ∧ (State.construct p).log = [] ∧ (State.construct p).init4Done = false ∧
        (State.construct p).seqPc = none ∧ (State.construct p).pk = none
    if ¬ (p.dataWidth = 4 ∨ p.dataWidth = 8) then failed 1
    else if ¬ (p.displayLines = 1 ∨ p.displayLines = 2) then failed 2
    else if ¬ (p.fontHeight = 8 ∨ p.fontHeight = 10) then failed 3
    else if ¬ (0 ≤ p.fontVariant ∧ p.fontVariant ≤ 3) then failed 4
    else if ¬ ((p.nData : Int) = p.dataWidth) then failed 5
    else if ¬ (1 ≤ p.widthStrap ∧ 1 ≤ p.heightStrap ∧ p.heightStrap % 8 = 0 ∧ p.widthStrap ≤ 512 ∧ p.heightStrap ≤ 512) then
      failed 6
    else (State.construct p).life = .ready ∧ (State.construct p).fault = { cause := 0, info := 0 }

/-- R38: the state after a reset with DATAWIDTH = 8 whose checks pass. -/
def Obligations.FullResetState : Prop :=
  ∀ p : Straps, configFailure p = none → p.dataWidth = 8 →
    let s := State.construct p
    s.life = .ready ∧ s.fault = { cause := 0, info := 0 } ∧ s.mode = .full ∧ s.init4Done = false ∧
      s.line = { rs := false, e := false, d0 := false, d1 := false, d2 := false, d3 := false, d4 := false, d5 := false,
                 d6 := false, d7 := false } ∧
      (∀ a, Memory.read s.pb a = 0) ∧ s.seqPc = none ∧ s.pk = none ∧
      s.trace = [.openOut .rs, .openOut .e, .openOut .d0, .openOut .d1, .openOut .d2, .openOut .d3, .openOut .d4,
        .openOut .d5, .openOut .d6, .openOut .d7] ∧
      s.log = []

/-- R38, R127: the state after a reset with DATAWIDTH = 4 whose checks pass, with default timing. -/
def Obligations.HalfResetState : Prop :=
  ∀ p : Straps, configFailure p = none → p.dataWidth = 4 → DefaultTiming p →
    let s := State.construct p
    let pulse := fun n : Nibble => [Event.wr .rs false, .wr .d0 (n.getLsbD 0), .wr .d1 (n.getLsbD 1),
      .wr .d2 (n.getLsbD 2), .wr .d3 (n.getLsbD 3), .wr .e true, .delay 1, .wr .e false]
    s.life = .ready ∧ s.fault = { cause := 0, info := 0 } ∧ s.mode = .half ∧ s.init4Done = true ∧
      s.line.rs = false ∧ s.line.e = false ∧ s.line.d0 = p.fs4Nibble.getLsbD 0 ∧ s.line.d1 = p.fs4Nibble.getLsbD 1 ∧
      s.line.d2 = p.fs4Nibble.getLsbD 2 ∧ s.line.d3 = p.fs4Nibble.getLsbD 3 ∧
      (∀ a, Memory.read s.pb a = 0) ∧ s.seqPc = none ∧ s.pk = none ∧
      s.trace = [.openOut .rs, .openOut .e, .openOut .d0, .openOut .d1, .openOut .d2, .openOut .d3] ++ pulse 0 ++
        pulse 0 ++ pulse 0 ++ pulse 0 ++ pulse 0 ++ pulse p.fs4Nibble ∧
      s.log = [.nib false 0, .nib false 0, .nib false 0, .nib false 0, .nib false 0, .nib false p.fs4Nibble]

/-- R40, R142, R144: the shadow registers at reset. The defaults and the field encoders are OPEN (log 4): the statement
holds for every value of them. That it says the same of straps that fail their checks, where R142 defines no encoder and
R39 speaks of the block only, is the model's choice (log 4). -/
def Obligations.ShadowRegistersAtReset : Prop :=
  ∀ p : Straps, (State.construct p).client =
    { entryMode := Config.entryModeDefault
      displayControl := Config.displayControlDefault
      modePower := Config.modePowerDefault
      displayFunction := Config.fsDw p.dataWidth ||| Config.fsLines p.displayLines ||| Config.fsFont p.fontHeight |||
        Config.fsVariant p.fontVariant }

/-! ## Pixel buffer requests (spec/41_pixelbuffer.md) -/

/-- R101: in range, `PSET` stores exactly its byte in its cell, and changes no other cell and nothing else. -/
def Obligations.PsetInRangeWritesItsCell : Prop :=
  ∀ (s : State) (x y : Nat) (v : Byte),
    Accepting s → Memory.wf s.pb = true → x < s.straps.width → y < s.straps.height →
      ∃ t, exec (.pset x y v) s = .next t ∧
        t = { s with pb := t.pb, responses := s.responses ++ [{ stream := [], word := 0x0000 }] } ∧
        Memory.read t.pb (y * s.straps.width + x) = v ∧
        ∀ a, a ≠ y * s.straps.width + x → Memory.read t.pb a = Memory.read s.pb a

/-- R102: in range, `PGET` answers VALID = 1 and the cell, and changes nothing. -/
def Obligations.PgetInRangeAnswersItsCell : Prop :=
  ∀ (s : State) (x y : Nat), Accepting s → x < s.straps.width → y < s.straps.height →
    exec (.pget x y) s = .next
      { s with responses := s.responses ++
                 [{ stream := [], word := 0x0100 ||| (Memory.read s.pb (y * s.straps.width + x)).setWidth 16 }] }

/-- R182, R52: an access out of range, on either side of either coordinate, is answered `DONE` and changes nothing but the
responses, so the buffer, `fault` and `life` stay; `PGET` answers the sentinel, VALID = 0. -/
def Obligations.OutOfRangeAccessIsSilent : Prop :=
  ∀ (s : State) (x y : Int) (v : Byte),
    Accepting s → (x < 0 ∨ s.straps.width ≤ x ∨ y < 0 ∨ s.straps.height ≤ y) →
      exec (.pset x y v) s = .next { s with responses := s.responses ++ [{ stream := [], word := 0x0000 }] } ∧
        exec (.pget x y) s = .next { s with responses := s.responses ++ [{ stream := [], word := 0x0000 }] }

/-- R103: `PCLR`, the word 0x30000000, makes every cell of the buffer 0 and touches nothing else. -/
def Obligations.PclrZeroesEveryCell : Prop :=
  decode 0x30000000 = .request .pclr ∧ ∀ s : State, Accepting s → Memory.wf s.pb = true →
    ∃ t, exec .pclr s = .next t ∧
      t = { s with pb := t.pb, responses := s.responses ++ [{ stream := [], word := 0x0000 }] } ∧
      (∀ a, a < s.straps.width * s.straps.height → Memory.read t.pb a = 0) ∧
      ∀ a, s.straps.width * s.straps.height ≤ a → Memory.read t.pb a = Memory.read s.pb a

/-- R104 (a), R62 (a), and the spec's inference R104 (c): after `PSET x, y, v` in range, `PGET` of that pixel answers v,
and `PGET` of any other pixel answers what it answered before. -/
def Obligations.SetThenGet : Prop :=
  ∀ (s : State) (x y x' y' : Nat) (v : Byte),
    Accepting s → Memory.wf s.pb = true → x < s.straps.width → y < s.straps.height → x' < s.straps.width →
      y' < s.straps.height →
      ∃ t u, exec (.pset x y v) s = .next t ∧ exec (.pget x' y') t = .next u ∧
        u.responses = s.responses ++ [{ stream := [], word := 0x0000 },
          { stream := [], word := 0x0100 |||
              (if x' = x ∧ y' = y then v else Memory.read s.pb (y' * s.straps.width + x')).setWidth 16 }]

/-! ## The packer (spec/42_packer.md) -/

/-- R110: bit i of `PackByte(x, r)` is `PB[x, r+i] != 0`, for every r at which it is defined. -/
def Obligations.PackByteBitIsRow : Prop :=
  ∀ (s : State) (x r : Nat), x < s.straps.width → r + 8 ≤ s.straps.height →
    ∃ b, packByte s x r = .ok b ∧ ∀ i, i < 8 → b.getLsbD i = (pixel s x (r + i) != 0)

/-- R111: `PACK`, the word 0x40000000, answers the packed stream, in the normative order, and changes nothing else. -/
def Obligations.PackAnswersPackedStream : Prop :=
  decode 0x40000000 = .request .pack ∧ ∀ s : State, Accepting s →
    ∃ out, IsPackedStream s out ∧
      exec .pack s = .next
        { s with pk := none, responses := s.responses ++ [{ stream := out, word := 0x0000 }] }

/-- R112: `PACK` twice with nothing between answers the same stream twice. -/
def Obligations.PackTwiceAnswersTheSame : Prop :=
  ∀ s : State, Accepting s →
    ∃ out, execAll [.pack, .pack] s = .next
      { s with pk := none, responses := s.responses ++ [{ stream := out, word := 0 }, { stream := out, word := 0 }] }

/-- The spec's inference R112 (a): a `PSET x, y, v` in range changes only bit `y mod 8` of stream element
`(y div 8)×W + x`, which becomes `(v != 0)`. -/
def Obligations.PsetChangesOneBitOfStream : Prop :=
  ∀ (s t u u' : State) (x y : Nat) (v : Byte) (out out' : List Byte),
    Accepting s → Memory.wf s.pb = true → s.straps.height % 8 = 0 → x < s.straps.width → y < s.straps.height →
      exec (.pset x y v) s = .next t →
      exec .pack s = .next u → u.responses = s.responses ++ [{ stream := out, word := 0 }] →
      exec .pack t = .next u' → u'.responses = t.responses ++ [{ stream := out', word := 0 }] →
      out'.length = out.length ∧
      ∀ k j, k < out.length → j < 8 →
        (out'.getD k 0).getLsbD j =
          if k = y / 8 * s.straps.width + x ∧ j = y % 8 then (v != 0) else (out.getD k 0).getLsbD j

/-- The spec's inference R112 (b): after `PCLR` every byte of the stream is 0. -/
def Obligations.PclrMakesStreamZero : Prop :=
  ∀ s : State, Accepting s → Memory.wf s.pb = true →
    ∃ u, execAll [.pclr, .pack] s = .next u ∧
      u.responses = s.responses ++ [{ stream := [], word := 0 },
        { stream := List.replicate (s.straps.width * (s.straps.height / 8)) 0, word := 0 }]

/-- The spec's inference R112 (c): the stream depends on `PB` only through which pixels are not 0. -/
def Obligations.StreamDependsOnlyOnLitPixels : Prop :=
  ∀ (s s' t t' : State), Accepting s → Accepting s' → s'.straps = s.straps →
    (∀ x y, x < s.straps.width → y < s.straps.height → (pixel s x y != 0) = (pixel s' x y != 0)) →
      exec .pack s = .next t → exec .pack s' = .next t' → t.responses.getLast? = t'.responses.getLast?

/-! ## The bus transport (spec/43_transport.md) -/

/-- R124: `XFER` in FULL mode with default timing: its twelve events, its one sample, its latches, its log entry, its word;
nothing else changes. -/
def Obligations.XferFullEmitsTwelveEvents : Prop :=
  ∀ (s : State) (rs : Level) (b : Byte), Accepting s → s.mode = .full → DefaultTiming s.straps →
    let es : List Event := [.wr .rs rs, .wr .d0 (b.getLsbD 0), .wr .d1 (b.getLsbD 1), .wr .d2 (b.getLsbD 2),
      .wr .d3 (b.getLsbD 3), .wr .d4 (b.getLsbD 4), .wr .d5 (b.getLsbD 5), .wr .d6 (b.getLsbD 6),
      .wr .d7 (b.getLsbD 7), .wr .e true, .delay 1, .wr .e false]
    encode (.xfer rs b) = 0x5#4 ++ 0#19 ++ BitVec.ofBool rs ++ b ∧
    samplesFrom .full s.line es = [{ rs := rs, payload := b, width := 8 }] ∧
    exec (.xfer rs b) s = .next
      { s with
        trace := s.trace ++ es
        line := { rs := rs, e := false, d0 := b.getLsbD 0, d1 := b.getLsbD 1, d2 := b.getLsbD 2, d3 := b.getLsbD 3,
                  d4 := b.getLsbD 4, d5 := b.getLsbD 5, d6 := b.getLsbD 6, d7 := b.getLsbD 7 }
        log := s.log ++ [.byte rs b]
        responses := s.responses ++ [{ stream := [], word := 0x0000 }] }

/-- R125, R72: `XFER` in HALF mode with default timing: its fifteen events, high nibble first, RS written once, its two
samples; nothing else changes. -/
def Obligations.XferHalfEmitsFifteenEvents : Prop :=
  ∀ (s : State) (rs : Level) (b : Byte), Accepting s → s.mode = .half → DefaultTiming s.straps →
    let es : List Event := [.wr .rs rs, .wr .d0 (b.getLsbD 4), .wr .d1 (b.getLsbD 5), .wr .d2 (b.getLsbD 6),
      .wr .d3 (b.getLsbD 7), .wr .e true, .delay 1, .wr .e false, .wr .d0 (b.getLsbD 0), .wr .d1 (b.getLsbD 1),
      .wr .d2 (b.getLsbD 2), .wr .d3 (b.getLsbD 3), .wr .e true, .delay 1, .wr .e false]
    encode (.xfer rs b) = 0x5#4 ++ 0#19 ++ BitVec.ofBool rs ++ b ∧
    samplesFrom .half s.line es = [{ rs := rs, payload := b >>> 4, width := 4 },
      { rs := rs, payload := b &&& 0xF, width := 4 }] ∧
    exec (.xfer rs b) s = .next
      { s with
        trace := s.trace ++ es
        line := { s.line with rs := rs, e := false, d0 := b.getLsbD 0, d1 := b.getLsbD 1, d2 := b.getLsbD 2,
                              d3 := b.getLsbD 3 }
        log := s.log ++ [.byte rs b]
        responses := s.responses ++ [{ stream := [], word := 0x0000 }] }

/-- R131, R132, R220: `XFER` completes in either mode with any OPEN delays; the bus then carries the samples of its byte, by
pulses that keep the strobe contract, and nothing but `T`, the latches, the log and the responses changes. -/
def Obligations.XferSamplesItsByte : Prop :=
  ∀ (s : State) (rs : Level) (b : Byte), Accepting s →
    ∃ t es, exec (.xfer rs b) s = .next t ∧
      t = { s with trace := s.trace ++ es, line := t.line, log := s.log ++ [.byte rs b],
                   responses := s.responses ++ [{ stream := [], word := 0x0000 }] } ∧
      t.line.rs = rs ∧ t.line.e = false ∧ wellPulsed es = true ∧
      samplesFrom s.mode s.line es =
        match s.mode with
        | .full => [{ rs := rs, payload := b, width := 8 }]
        | .half => [{ rs := rs, payload := b >>> 4, width := 4 }, { rs := rs, payload := b &&& 0xF, width := 4 }]

/-- R125, R224: a half-width byte writes RS exactly once, as its first event, whatever the delays. -/
def Obligations.HalfByteWritesRsOnceFirst : Prop :=
  ∀ (s : State) (rs : Level) (b : Byte), Accepting s → s.mode = .half →
    ∃ t es, exec (.xfer rs b) s = .next t ∧ t.trace = s.trace ++ .wr .rs rs :: es ∧ countWrites .rs es = 0

/-- R132: where the three OPEN delays stand in a full-width transfer. -/
def Obligations.DelaysStandAroundTheStrobe : Prop :=
  ∀ (s : State) (rs : Level) (b : Byte), Accepting s → s.mode = .full → 0 < s.straps.tSetup → 0 < s.straps.tEl →
    0 < s.straps.tPost →
      ∃ t, exec (.xfer rs b) s = .next t ∧
        t.trace = s.trace ++ [.wr .rs rs, .wr .d0 (b.getLsbD 0), .wr .d1 (b.getLsbD 1), .wr .d2 (b.getLsbD 2),
          .wr .d3 (b.getLsbD 3), .wr .d4 (b.getLsbD 4), .wr .d5 (b.getLsbD 5), .wr .d6 (b.getLsbD 6),
          .wr .d7 (b.getLsbD 7), .delay s.straps.tSetup, .wr .e true, .delay 1, .wr .e false, .delay s.straps.tEl,
          .delay s.straps.tPost]

/-- R126: `NIB` in HALF mode with default timing. -/
def Obligations.NibEmitsEightEvents : Prop :=
  ∀ (s : State) (rs : Level) (n : Nibble), Accepting s → s.mode = .half → DefaultTiming s.straps →
    exec (.nib rs n) s = .next
      { s with
        trace := s.trace ++ [.wr .rs rs, .wr .d0 (n.getLsbD 0), .wr .d1 (n.getLsbD 1), .wr .d2 (n.getLsbD 2),
          .wr .d3 (n.getLsbD 3), .wr .e true, .delay 1, .wr .e false]
        line := { s.line with rs := rs, e := false, d0 := n.getLsbD 0, d1 := n.getLsbD 1, d2 := n.getLsbD 2,
                              d3 := n.getLsbD 3 }
        log := s.log ++ [.nib rs n]
        responses := s.responses ++ [{ stream := [], word := 0x0000 }] }

/-- R126, R131, R132: `NIB` in HALF mode completes with any OPEN delays: one sample of its nibble, the strobe contract kept,
and nothing but `T`, the latches, the log and the responses changes. -/
def Obligations.NibSamplesItsNibble : Prop :=
  ∀ (s : State) (rs : Level) (n : Nibble), Accepting s → s.mode = .half →
    ∃ t es, exec (.nib rs n) s = .next t ∧
      t = { s with trace := s.trace ++ es, line := t.line, log := s.log ++ [.nib rs n],
                   responses := s.responses ++ [{ stream := [], word := 0x0000 }] } ∧
      t.line.rs = rs ∧ t.line.e = false ∧ wellPulsed es = true ∧
      samplesFrom .half s.line es = [{ rs := rs, payload := n.setWidth 8, width := 4 }]

/-- R127, R131, R132: `INIT4` in HALF mode completes with any OPEN delays: five samples of zero and one of FS4_NIBBLE, RS
low in all six, and `init4_done` set. -/
def Obligations.Init4SamplesSixNibbles : Prop :=
  ∀ s : State, Accepting s → s.mode = .half →
    ∃ t es, exec .init4 s = .next t ∧
      t = { s with trace := s.trace ++ es, line := t.line, init4Done := true,
                   log := s.log ++ List.replicate 5 (.nib false 0) ++ [.nib false s.straps.fs4Nibble],
                   responses := s.responses ++ [{ stream := [], word := 0x0000 }] } ∧
      wellPulsed es = true ∧
      samplesFrom .half s.line es =
        List.replicate 5 { rs := false, payload := 0, width := 4 } ++
          [{ rs := false, payload := s.straps.fs4Nibble.setWidth 8, width := 4 }]

/-- R127: `INIT4` in HALF mode with default timing: five zero nibbles, then FS4_NIBBLE, all with RS low. -/
def Obligations.Init4EmitsSixNibbles : Prop :=
  ∀ s : State, Accepting s → s.mode = .half → DefaultTiming s.straps →
    let f := s.straps.fs4Nibble
    let pulse := fun n : Nibble => [Event.wr .rs false, .wr .d0 (n.getLsbD 0), .wr .d1 (n.getLsbD 1),
      .wr .d2 (n.getLsbD 2), .wr .d3 (n.getLsbD 3), .wr .e true, .delay 1, .wr .e false]
    exec .init4 s = .next
      { s with
        trace := s.trace ++ pulse 0 ++ pulse 0 ++ pulse 0 ++ pulse 0 ++ pulse 0 ++ pulse f
        line := { s.line with rs := false, e := false, d0 := f.getLsbD 0, d1 := f.getLsbD 1, d2 := f.getLsbD 2,
                              d3 := f.getLsbD 3 }
        log := s.log ++ [.nib false 0, .nib false 0, .nib false 0, .nib false 0, .nib false 0, .nib false f]
        init4Done := true
        responses := s.responses ++ [{ stream := [], word := 0x0000 }] }

/-- R183, R190: `NIB` and `INIT4` in FULL mode take the fault UnimplementedCapability with their request word as info,
before any event: nothing else changes. -/
def Obligations.HalfWidthRequestsFaultInFullMode : Prop :=
  ∀ (s : State) (i : Instr), Accepting s → s.mode = .full → s.fault.cause = 0 →
    (i = .init4 ∨ ∃ rs n, i = .nib rs n) →
      exec i s = .next
        { s with
          life := .fault
          fault := { cause := 3, info := encode i }
          pk := none
          responses := s.responses ++ [{ stream := [], word := 0x1600 }] }

/-- R128: `RELEASE` in either mode: one release marker for each owned line, no write, and `life` is RELEASED. -/
def Obligations.ReleaseGivesBackEveryLine : Prop :=
  ∀ s : State, Accepting s →
    exec .release s = .next
      { s with
        trace := s.trace ++
          match s.mode with
          | .full => [.rel .rs, .rel .e, .rel .d0, .rel .d1, .rel .d2, .rel .d3, .rel .d4, .rel .d5, .rel .d6, .rel .d7]
          | .half => [.rel .rs, .rel .e, .rel .d0, .rel .d1, .rel .d2, .rel .d3]
        life := .released
        responses := s.responses ++ [{ stream := [], word := 0x0000 }] }

/-- The spec's inference R134: the events, writes, pulses and least durations (in microseconds) of the transport's lists
with default timing. -/
def Obligations.TransportCounts : Prop :=
  ∀ (c : Straps) (rs : Level) (b : Byte) (n : Nibble), DefaultTiming c →
    let counts := fun es : List Event => (es.length, countWr es, countPulses es, leastDuration es)
    counts (xferEvents c .full rs b) = (12, 11, 1, 1) ∧ counts (xferEvents c .half rs b) = (15, 13, 2, 2) ∧
      counts (nibEvents c rs n) = (8, 7, 1, 1) ∧ counts (init4Events c) = (48, 42, 6, 6) ∧
      counts (releaseEvents .full) = (10, 0, 0, 0) ∧ counts (releaseEvents .half) = (6, 0, 0, 0)

/-! ## REFRESH (spec/45_graphics.md) -/

/-- R171: `REFRESH` sends the very stream `PACK` would answer, each byte as `XFER 1, p`: the events are the concatenation of
the transfers' lists, the log their entries; the pixel buffer and all else is unchanged. -/
def Obligations.RefreshSendsPackedStream : Prop :=
  ∀ s : State, Accepting s →
    ∃ out, IsPackedStream s out ∧
      exec .refresh s = .next
        { s with
          trace := s.trace ++ out.flatMap (xferEvents s.straps s.mode true)
          line := s.line.replay (out.flatMap (xferEvents s.straps s.mode true))
          log := s.log ++ out.map (LogEntry.byte true)
          pk := none
          responses := s.responses ++ [{ stream := [], word := 0x0000 }] }

/-- R89, R171: `REFRESH` behaves as the sequence of `DATA` requests over the bytes of `PACK`, up to the responses. -/
def Obligations.RefreshIsSequenceOfDataTransfers : Prop :=
  ∀ s : State, Accepting s → s.pk = none →
    ∃ out t u, exec .pack s = .next { s with responses := s.responses ++ [{ stream := out, word := 0 }] } ∧
      exec .refresh s = .next t ∧ execAll (out.map (Instr.xfer true)) s = .next u ∧
      { t with responses := s.responses } = { u with responses := s.responses }

/-- R171: the number of events of a refresh with default timing, and no command byte: RS is never written low. -/
def Obligations.RefreshEventCountAndRsHigh : Prop :=
  ∀ s : State, Accepting s → DefaultTiming s.straps →
    ∃ t es, exec .refresh s = .next t ∧ t.trace = s.trace ++ es ∧ Event.wr .rs false ∉ es ∧
      es.length = (match s.mode with | .full => 12 | .half => 15) * (s.straps.width * (s.straps.height / 8))

/-! ## The client layer (spec/44_protocol_client.md); its constants are OPEN (log 4) and stay symbols. That a procedure is
one step that puts its request words first in the host's queue is the model's choice (log 2). -/

/-- R147: a flag toggle changes its register by the mask and then sends that whole register, exactly one command byte,
whether or not the value changed; no other register changes. That every byte is a mask and that `displayFunction` may be
named are the model's choices (logs 16 and 17). -/
def Obligations.FlagToggleRetransmitsWholeRegister : Prop :=
  ∀ (s : State) (rest : List HostInput) (r : ShadowReg) (m : Byte) (set : Bool),
    Accepting s → s.pending = .pseudo (if set then .setFlag r m else .clrFlag r m) :: rest →
      let v := if set then shadow s.client r ||| m else shadow s.client r &&& ~~~m
      ∃ u, stepMany 2 s = .next u ∧ shadow u.client r = v ∧ (∀ q, q ≠ r → shadow u.client q = shadow s.client q) ∧
        u.log = s.log ++ [.byte false (commandOf r ||| v)] ∧ u.pending = rest ∧ u.pb = s.pb

/-- R146: `BRINGUP` sets the shadow registers to their defaults and sends six command bytes in the fixed order. -/
def Obligations.BringUpSendsSixCommandsInOrder : Prop :=
  ∀ (s : State) (rest : List HostInput), Accepting s → s.pending = .pseudo .bringup :: rest →
    ∃ u, stepMany 7 s = .next u ∧ u.pending = rest ∧
      u.client.entryMode = Config.entryModeDefault ∧ u.client.displayControl = Config.displayControlDefault ∧
      u.client.modePower = Config.modePowerDefault ∧
      u.client.displayFunction = Config.fsDw s.straps.dataWidth ||| Config.fsLines s.straps.displayLines |||
        Config.fsFont s.straps.fontHeight ||| Config.fsVariant s.straps.fontVariant ∧
      u.log = s.log ++ [.byte false (Config.functionSetCmd ||| u.client.displayFunction),
        .byte false (Config.displayControlCmd ||| u.client.displayControl), .byte false Config.clearDisplay,
        .byte false Config.returnHome, .byte false (Config.entryModeCmd ||| u.client.entryMode),
        .byte false (Config.modePowerCmd ||| u.client.modePower)] ∧
      (DefaultTiming s.straps → u.trace.length = s.trace.length + match s.mode with | .full => 72 | .half => 90)

/-- R214, R222: `BRINGUP` right after a reset that passes its checks: in HALF mode the six initialisation nibbles stand in
the log before the first command byte, in FULL mode nothing does; the six command bytes follow, and the bus carries exactly
the samples of the log. (The procedure's place in the host's queue is log 2.) -/
def Obligations.BringUpFollowsInitialisation : Prop :=
  ∀ p : Straps, configFailure p = none →
    ∃ u, stepMany 7 { State.construct p with pending := [.pseudo .bringup] } = .next u ∧ u.life = .ready ∧
      u.log = (match u.mode with
        | .full => []
        | .half => List.replicate 5 (.nib false 0) ++ [.nib false p.fs4Nibble]) ++
        [.byte false (Config.functionSetCmd ||| u.client.displayFunction),
          .byte false (Config.displayControlCmd ||| Config.displayControlDefault), .byte false Config.clearDisplay,
          .byte false Config.returnHome, .byte false (Config.entryModeCmd ||| Config.entryModeDefault),
          .byte false (Config.modePowerCmd ||| Config.modePowerDefault)] ∧
      samples u.mode u.trace = u.log.flatMap (entrySamples u.mode)

/-- R160: `FINALIZE` clears the display, then forces display-off by a mask and a retransmission. -/
def Obligations.FinalizeClearsThenDisplayOff : Prop :=
  ∀ (s : State) (rest : List HostInput), Accepting s → s.pending = .pseudo .finalize :: rest →
    ∃ u, stepMany 3 s = .next u ∧ u.pending = rest ∧
      u.client = { s.client with displayControl := s.client.displayControl &&& ~~~Config.fDisplayOn } ∧
      u.log = s.log ++ [.byte false Config.clearDisplay,
        .byte false (Config.displayControlCmd ||| (s.client.displayControl &&& ~~~Config.fDisplayOn))]

/-- R77, R151: `SETPOS col, row` sends one command byte, the opcode ORed with row×64 + col for a column below the line
pitch, and changes no shadow register; `SETPOS 2, 1` sends `SET_DDRAM_ADDR | 0x42`. -/
def Obligations.SetPosSendsCursorAddress : Prop :=
  ∀ (s : State) (rest : List HostInput) (col row : Nat),
    Accepting s → s.pending = .pseudo (.setPos col row) :: rest → col < 64 →
      ∃ u, stepMany 2 s = .next u ∧ u.pending = rest ∧ u.client = s.client ∧
        u.log = s.log ++ [.byte false (Config.setDdramAddr ||| BitVec.ofNat 8 (row * 64 + col))] ∧
        (col = 2 → row = 1 → u.log = s.log ++ [.byte false (Config.setDdramAddr ||| 0x42)])

/-- R89, R150, R165: `CMD b`, `DATA b`, `SETCG a` and `SETDD a` each send one byte and change no shadow register. -/
def Obligations.SimpleProceduresSendOneByte : Prop :=
  ∀ (s : State) (rest : List HostInput) (p : Pseudo) (rs : Level) (b : Byte),
    Accepting s → s.pending = .pseudo p :: rest →
      (p = .cmd b ∧ rs = false ∨ p = .data b ∧ rs = true ∨
        (∃ a, p = .setCg a ∧ rs = false ∧ b = Config.setCgramAddr ||| BitVec.ofNat 8 a) ∨
        ∃ a, p = .setDd a ∧ rs = false ∧ b = Config.setDdramAddr ||| BitVec.ofNat 8 a) →
      ∃ u, stepMany 2 s = .next u ∧ u.pending = rest ∧ u.client = s.client ∧ u.log = s.log ++ [.byte rs b]

/-! ## The whole machine -/

/-- The invariant holds right after reset. -/
def Obligations.ResetMeetsBlockInv : Prop := BlockInv State.reset

/-- The invariant, and the agreement of the samples with the log, hold after reset with any straps at all. -/
def Obligations.ConstructMeetsInvariants : Prop :=
  ∀ p : Straps, BlockInv (State.construct p) ∧ SamplesMatchLog (State.construct p)

/-- Every step keeps the invariant: the pixel buffer stays canonical and inside W×H, each latch holds the level last
written, the strobe is low and every pulse of `T` keeps its contract, the fault register and `life` agree, the mode is the
strapped one (R21 to R28, R220). That the latches HALF mode does not own stay low is the model's choice (log 6). -/
def Obligations.StepKeepsBlockInv : Prop :=
  ∀ s t : State, BlockInv s → step s = .next t → BlockInv t

/-- R29, R131: every step keeps the agreement of the bus with the log: the samples of `T` are those of the logged transfers,
in order, none added, dropped or changed. -/
def Obligations.StepKeepsSamplesMatchLog : Prop :=
  ∀ s t : State, BlockInv s → SamplesMatchLog s → step s = .next t → SamplesMatchLog t

/-- R22, R62 (c): no step changes the straps or the mode, or takes back an event, a log entry or a response. -/
def Obligations.StepOnlyExtendsHistory : Prop :=
  ∀ s t : State, step s = .next t →
    t.straps = s.straps ∧ t.mode = s.mode ∧ (∃ es, t.trace = s.trace ++ es) ∧ (∃ xs, t.log = s.log ++ xs) ∧
      ∃ rs, t.responses = s.responses ++ rs

/-- R24, R25, R192: once recorded a fault is never changed or cleared, `init4_done` is never cleared, and nothing leaves
FAULT or RELEASED. -/
def Obligations.FaultLifeAndFlagAreSticky : Prop :=
  ∀ s t : State, step s = .next t →
    (s.fault.cause ≠ 0 → t.fault = s.fault) ∧ (s.init4Done = true → t.init4Done = true) ∧
      (s.life ≠ .ready → t.life = s.life)

/-- R23: of all requests executed in READY, only `RELEASE` leads to RELEASED, and only `NIB` and `INIT4` in FULL mode lead
to FAULT. -/
def Obligations.WhatLeavesReady : Prop :=
  ∀ (s t : State) (i : Instr), Accepting s → exec i s = .next t →
    (t.life = .released ↔ i = .release) ∧
      (t.life = .fault ↔ s.mode = .full ∧ (i = .init4 ∨ ∃ rs n, i = .nib rs n))

/-- R26, R100, R129 (c), R171: only `PSET` and `PCLR` change the pixel buffer. -/
def Obligations.OnlyPixelWritesChangePixels : Prop :=
  ∀ (s t : State) (i : Instr), exec i s = .next t → i ≠ .pclr → (∀ x y v, i ≠ .pset x y v) → t.pb = s.pb

/-- R100, R111: the pixel buffer requests and `PACK` emit no event and touch no latch, log entry, flag, fault, sequencer or
shadow register. -/
def Obligations.PixelRequestsTouchNoLine : Prop :=
  ∀ (s t : State) (i : Instr), exec i s = .next t →
    ((∃ x y v, i = .pset x y v) ∨ (∃ x y, i = .pget x y) ∨ i = .pclr ∨ i = .pack) →
      t.trace = s.trace ∧ t.line = s.line ∧ t.log = s.log ∧ t.init4Done = s.init4Done ∧ t.fault = s.fault ∧
        t.life = s.life ∧ t.seqPc = s.seqPc ∧ t.client = s.client ∧ t.pending = s.pending

/-- R30, R100, R129 (c): no request touches the client's shadow registers; only a client procedure does. -/
def Obligations.RequestsLeaveShadowRegisters : Prop :=
  ∀ s t : State, step s = .next t → t.client ≠ s.client → ∃ p rest, s.pending = .pseudo p :: rest
end

