-- ==== Sys2Proof/Laws/Memory.lean ====
section
/-! SUPPORT. The laws of the pixel cells: a read after a write, the other cells, the canonical form. -/

namespace Sys2Proof.Machine

@[simp] theorem read_nil (a : Nat) : Memory.read [] a = 0 := rfl

theorem read_cons (b : Nat) (u : Byte) (m : Memory) (a : Nat) :
    Memory.read ((b, u) :: m) a = if b = a then u else Memory.read m a := rfl

@[simp] theorem wf_nil : Memory.wf [] = true := rfl

@[simp] theorem below_nil (n : Nat) : Memory.below n [] = true := rfl

theorem wfFrom_cons {lo a : Nat} {v : Byte} {m : Memory} :
    wfFrom lo ((a, v) :: m) = true ↔ lo ≤ a ∧ v ≠ unlistedCell ∧ wfFrom (a + 1) m = true := by
  simp [wfFrom]

theorem wfFrom_mono {lo lo' : Nat} {m : Memory} (h : wfFrom lo m = true) (hle : lo' ≤ lo) : wfFrom lo' m = true := by
  cases m with
  | nil => rfl
  | cons c m =>
    obtain ⟨a, v⟩ := c
    rw [wfFrom_cons] at h ⊢
    exact ⟨hle.trans h.1, h.2⟩

/-- Below the first address the form allows, every cell reads as an unlisted one. -/
theorem read_of_lt {lo a : Nat} {m : Memory} (h : wfFrom lo m = true) (ha : a < lo) : Memory.read m a = 0 := by
  induction m generalizing lo with
  | nil => rfl
  | cons c m ih =>
    obtain ⟨b, u⟩ := c
    rw [wfFrom_cons] at h
    rw [read_cons, if_neg (by omega)]
    exact ih h.2.2 (by omega)

theorem wfFrom_consCell {lo a : Nat} {v : Byte} {m : Memory} (hlo : lo ≤ a) (h : wfFrom (a + 1) m = true) :
    wfFrom lo (consCell a v m) = true := by
  unfold consCell
  split
  · exact wfFrom_mono h (by omega)
  · exact wfFrom_cons.2 ⟨hlo, ‹_›, h⟩

theorem read_consCell_self {a : Nat} {v : Byte} {m : Memory} (h : wfFrom (a + 1) m = true) :
    Memory.read (consCell a v m) a = v := by
  unfold consCell
  split
  · rw [read_of_lt h (by omega)]; exact (‹v = unlistedCell›).symm
  · rw [read_cons, if_pos rfl]

theorem read_consCell_other {a b : Nat} {v : Byte} {m : Memory} (h : b ≠ a) :
    Memory.read (consCell a v m) b = Memory.read m b := by
  unfold consCell
  split
  · rfl
  · rw [read_cons, if_neg (Ne.symm h)]

theorem wfFrom_write {lo a : Nat} {v : Byte} {m : Memory} (h : wfFrom lo m = true) (hlo : lo ≤ a) :
    wfFrom lo (Memory.write m a v) = true := by
  induction m generalizing lo with
  | nil => exact wfFrom_consCell hlo rfl
  | cons c m ih =>
    obtain ⟨b, u⟩ := c
    rw [wfFrom_cons] at h
    unfold Memory.write
    split
    · exact wfFrom_consCell hlo (wfFrom_cons.2 ⟨by omega, h.2⟩)
    · split
      · subst a; exact wfFrom_consCell hlo h.2.2
      · exact wfFrom_cons.2 ⟨h.1, h.2.1, ih h.2.2 (by omega)⟩

/-- A write keeps the canonical form. -/
theorem wf_write {m : Memory} (h : Memory.wf m = true) (a : Nat) (v : Byte) : Memory.wf (Memory.write m a v) = true :=
  wfFrom_write h (Nat.zero_le a)

theorem read_write_self_from {lo a : Nat} {v : Byte} {m : Memory} (h : wfFrom lo m = true) :
    Memory.read (Memory.write m a v) a = v := by
  induction m generalizing lo with
  | nil => exact read_consCell_self rfl
  | cons c m ih =>
    obtain ⟨b, u⟩ := c
    rw [wfFrom_cons] at h
    unfold Memory.write
    split
    · exact read_consCell_self (wfFrom_cons.2 ⟨by omega, h.2⟩)
    · split
      · subst a; exact read_consCell_self h.2.2
      · rw [read_cons, if_neg (by omega)]; exact ih h.2.2

/-- A read after a write to the same cell gives the value written (R14). -/
theorem read_write_self {m : Memory} (h : Memory.wf m = true) (a : Nat) (v : Byte) :
    Memory.read (Memory.write m a v) a = v := read_write_self_from h

/-- A write leaves every other cell alone (R52, R104 (c)). -/
theorem read_write_other {m : Memory} {a b : Nat} (h : b ≠ a) (v : Byte) :
    Memory.read (Memory.write m a v) b = Memory.read m b := by
  induction m with
  | nil => exact read_consCell_other h
  | cons c m ih =>
    obtain ⟨k, u⟩ := c
    unfold Memory.write
    split
    · exact read_consCell_other h
    · split
      · subst a; rw [read_consCell_other h, read_cons, if_neg (by omega)]
      · rw [read_cons, read_cons, ih]

theorem below_cons {n a : Nat} {v : Byte} {m : Memory} :
    Memory.below n ((a, v) :: m) = true ↔ a < n ∧ Memory.below n m = true := by
  simp [Memory.below]

theorem below_consCell {n a : Nat} {v : Byte} {m : Memory} (ha : a < n) (h : Memory.below n m = true) :
    Memory.below n (consCell a v m) = true := by
  unfold consCell
  split
  · exact h
  · exact below_cons.2 ⟨ha, h⟩

/-- A write below a bound keeps every address below it. -/
theorem below_write {n a : Nat} {v : Byte} {m : Memory} (ha : a < n) (h : Memory.below n m = true) :
    Memory.below n (Memory.write m a v) = true := by
  induction m with
  | nil => exact below_consCell ha rfl
  | cons c m ih =>
    obtain ⟨b, u⟩ := c
    unfold Memory.write
    split
    · exact below_consCell ha h
    · split
      · exact below_consCell ha (below_cons.1 h).2
      · exact below_cons.2 ⟨(below_cons.1 h).1, ih (below_cons.1 h).2⟩

/-- From the bound on, every cell reads as an unlisted one. -/
theorem read_of_below {n a : Nat} {m : Memory} (h : Memory.below n m = true) (ha : n ≤ a) : Memory.read m a = 0 := by
  induction m with
  | nil => rfl
  | cons c m ih =>
    obtain ⟨b, u⟩ := c
    obtain ⟨hb, hm⟩ := below_cons.1 h
    rw [read_cons, if_neg (by omega), ih hm]

theorem ext_from {lo : Nat} {m m' : Memory} (h : wfFrom lo m = true) (h' : wfFrom lo m' = true)
    (e : ∀ a, Memory.read m a = Memory.read m' a) : m = m' := by
  induction m generalizing lo m' with
  | nil =>
    cases m' with
    | nil => rfl
    | cons c m' =>
      obtain ⟨b, u⟩ := c
      have := e b
      rw [read_cons, if_pos rfl] at this
      exact absurd this.symm (wfFrom_cons.1 h').2.1
  | cons c m ih =>
    obtain ⟨a, v⟩ := c
    cases m' with
    | nil =>
      have := e a
      rw [read_cons, if_pos rfl] at this
      exact absurd this (wfFrom_cons.1 h).2.1
    | cons c' m' =>
      obtain ⟨b, u⟩ := c'
      rw [wfFrom_cons] at h h'
      have hab : a = b := by
        by_contra hne
        rcases Nat.lt_or_ge a b with hlt | hge
        · have := e a
          rw [read_cons, if_pos rfl, read_cons, if_neg (Ne.symm hne), read_of_lt h'.2.2 (by omega)] at this
          exact h.2.1 this
        · have := e b
          rw [read_cons, if_neg hne, read_cons, if_pos rfl, read_of_lt h.2.2 (by omega)] at this
          exact h'.2.1 this.symm
      subst b
      have huv : v = u := by simpa [read_cons] using e a
      subst u
      rw [ih h.2.2 h'.2.2]
      intro k
      rcases Nat.lt_or_ge k (a + 1) with hk | hk
      · rw [read_of_lt h.2.2 hk, read_of_lt h'.2.2 hk]
      · have := e k
        rwa [read_cons, read_cons, if_neg (by omega), if_neg (by omega)] at this

/-- Equal reads of canonical memories make equal data. -/
theorem memory_ext {m m' : Memory} (h : Memory.wf m = true) (h' : Memory.wf m' = true)
    (e : ∀ a, Memory.read m a = Memory.read m' a) : m = m' := ext_from h h' e

end Sys2Proof.Machine
end

