-- ==== Sys2Proof/Laws/Operands.lean ====
section
/-! SUPPORT. The laws of the operand computations: bits of a packed sum, cells in range. -/

namespace Sys2Proof.Machine

theorem getLsbD_sumBitsFrom (i j : Nat) (vs : List Level) (hj : j < 8) :
    (sumBitsFrom i vs).getLsbD j = (decide (i ≤ j) && vs.getD (j - i) false) := by
  induction vs generalizing i with
  | nil => simp [sumBitsFrom]
  | cons v vs ih =>
    rw [sumBitsFrom, BitVec.getLsbD_or, ih]
    rcases Nat.lt_trichotomy i j with h | h | h
    · obtain ⟨d, rfl⟩ := Nat.exists_eq_add_of_lt h
      have e1 : i + d + 1 - i = d + 1 := by omega
      have e2 : i + d + 1 - (i + 1) = d := by omega
      have h1 : ((if v then (1 : Byte) <<< i else 0) : Byte).getLsbD (i + d + 1) = false := by
        split
        · rw [BitVec.getLsbD_shiftLeft, e1]; simp
        · simp
      rw [h1, e1, e2]
      simp [show i + 1 ≤ i + d + 1 by omega, show i ≤ i + d + 1 by omega]
    · subst h
      cases v <;> simp [hj]
    · have h1 : ((if v then (1 : Byte) <<< i else 0) : Byte).getLsbD j = false := by
        split
        · simp [BitVec.getLsbD_shiftLeft, h]
        · simp
      rw [h1]
      simp [show ¬ i ≤ j by omega, show ¬ i + 1 ≤ j by omega]

/-- Bit j of the sum is the j-th level (R16 (e)). -/
theorem getLsbD_sumBits (vs : List Level) (j : Nat) (hj : j < 8) : (sumBits vs).getLsbD j = vs.getD j false := by
  simp [sumBits, getLsbD_sumBitsFrom 0 j vs hj]

/-- A pair in range has its cell in the buffer (R16 (g), R52). -/
theorem cellAddr_lt {c : Straps} {x y : Nat} (hx : x < c.width) (hy : y < c.height) :
    cellAddr c x y < cellCount c := by
  unfold cellAddr cellCount
  calc y * c.width + x < y * c.width + c.width := by omega
    _ = (y + 1) * c.width := by rw [Nat.succ_mul]
    _ ≤ c.height * c.width := Nat.mul_le_mul_right _ hy
    _ = c.width * c.height := Nat.mul_comm _ _

/-- Different pairs in range have different cells (R51: a dense row-major mapping). -/
theorem cellAddr_inj {c : Straps} {x y x' y' : Nat} (hx : x < c.width) (hx' : x' < c.width)
    (h : cellAddr c x y = cellAddr c x' y') : x = x' ∧ y = y' := by
  unfold cellAddr at h
  have hw : 0 < c.width := by omega
  have e1 : (y * c.width + x) % c.width = x := by
    rw [Nat.add_comm, Nat.add_mul_mod_self_right, Nat.mod_eq_of_lt hx]
  have e2 : (y' * c.width + x') % c.width = x' := by
    rw [Nat.add_comm, Nat.add_mul_mod_self_right, Nat.mod_eq_of_lt hx']
  have hxx : x = x' := by rw [← e1, ← e2, h]
  subst hxx
  exact ⟨rfl, Nat.eq_of_mul_eq_mul_right hw (by omega)⟩

/-- The range test, in words (R52). -/
theorem inRange_iff {c : Straps} {x y : Int} :
    inRange c x y = true ↔ 0 ≤ x ∧ x < c.width ∧ 0 ≤ y ∧ y < c.height := by
  simp [inRange, and_assoc]

end Sys2Proof.Machine
end

