-- ==== Sys2Proof/Laws/State.lean ====
section
/-! SUPPORT. One lemma per field per named update of State, each true by definition. -/

namespace Sys2Proof.Machine

/-! ### emit -/

@[simp] theorem emit_straps (s : State) (e : Event) : (emit s e).straps = s.straps := rfl
@[simp] theorem emit_life (s : State) (e : Event) : (emit s e).life = s.life := rfl
@[simp] theorem emit_fault (s : State) (e : Event) : (emit s e).fault = s.fault := rfl
@[simp] theorem emit_mode (s : State) (e : Event) : (emit s e).mode = s.mode := rfl
@[simp] theorem emit_init4Done (s : State) (e : Event) : (emit s e).init4Done = s.init4Done := rfl
@[simp] theorem emit_line (s : State) (e : Event) : (emit s e).line = s.line.apply e := rfl
@[simp] theorem emit_pb (s : State) (e : Event) : (emit s e).pb = s.pb := rfl
@[simp] theorem emit_seqPc (s : State) (e : Event) : (emit s e).seqPc = s.seqPc.map (· + 1) := rfl
@[simp] theorem emit_pk (s : State) (e : Event) : (emit s e).pk = s.pk := rfl
@[simp] theorem emit_trace (s : State) (e : Event) : (emit s e).trace = s.trace ++ [e] := rfl
@[simp] theorem emit_log (s : State) (e : Event) : (emit s e).log = s.log := rfl
@[simp] theorem emit_client (s : State) (e : Event) : (emit s e).client = s.client := rfl
@[simp] theorem emit_responses (s : State) (e : Event) : (emit s e).responses = s.responses := rfl
@[simp] theorem emit_pending (s : State) (e : Event) : (emit s e).pending = s.pending := rfl

/-! ### logAll -/

@[simp] theorem logAll_straps (s : State) (xs : List LogEntry) : (logAll s xs).straps = s.straps := rfl
@[simp] theorem logAll_life (s : State) (xs : List LogEntry) : (logAll s xs).life = s.life := rfl
@[simp] theorem logAll_fault (s : State) (xs : List LogEntry) : (logAll s xs).fault = s.fault := rfl
@[simp] theorem logAll_mode (s : State) (xs : List LogEntry) : (logAll s xs).mode = s.mode := rfl
@[simp] theorem logAll_init4Done (s : State) (xs : List LogEntry) : (logAll s xs).init4Done = s.init4Done := rfl
@[simp] theorem logAll_line (s : State) (xs : List LogEntry) : (logAll s xs).line = s.line := rfl
@[simp] theorem logAll_pb (s : State) (xs : List LogEntry) : (logAll s xs).pb = s.pb := rfl
@[simp] theorem logAll_seqPc (s : State) (xs : List LogEntry) : (logAll s xs).seqPc = s.seqPc := rfl
@[simp] theorem logAll_pk (s : State) (xs : List LogEntry) : (logAll s xs).pk = s.pk := rfl
@[simp] theorem logAll_trace (s : State) (xs : List LogEntry) : (logAll s xs).trace = s.trace := rfl
@[simp] theorem logAll_log (s : State) (xs : List LogEntry) : (logAll s xs).log = s.log ++ xs := rfl
@[simp] theorem logAll_client (s : State) (xs : List LogEntry) : (logAll s xs).client = s.client := rfl
@[simp] theorem logAll_responses (s : State) (xs : List LogEntry) : (logAll s xs).responses = s.responses := rfl
@[simp] theorem logAll_pending (s : State) (xs : List LogEntry) : (logAll s xs).pending = s.pending := rfl

/-! ### startSeq -/

@[simp] theorem startSeq_straps (s : State) : (startSeq s).straps = s.straps := rfl
@[simp] theorem startSeq_life (s : State) : (startSeq s).life = s.life := rfl
@[simp] theorem startSeq_fault (s : State) : (startSeq s).fault = s.fault := rfl
@[simp] theorem startSeq_mode (s : State) : (startSeq s).mode = s.mode := rfl
@[simp] theorem startSeq_init4Done (s : State) : (startSeq s).init4Done = s.init4Done := rfl
@[simp] theorem startSeq_line (s : State) : (startSeq s).line = s.line := rfl
@[simp] theorem startSeq_pb (s : State) : (startSeq s).pb = s.pb := rfl
@[simp] theorem startSeq_seqPc (s : State) : (startSeq s).seqPc = some 0 := rfl
@[simp] theorem startSeq_pk (s : State) : (startSeq s).pk = s.pk := rfl
@[simp] theorem startSeq_trace (s : State) : (startSeq s).trace = s.trace := rfl
@[simp] theorem startSeq_log (s : State) : (startSeq s).log = s.log := rfl
@[simp] theorem startSeq_client (s : State) : (startSeq s).client = s.client := rfl
@[simp] theorem startSeq_responses (s : State) : (startSeq s).responses = s.responses := rfl
@[simp] theorem startSeq_pending (s : State) : (startSeq s).pending = s.pending := rfl

/-! ### stopSeq -/

@[simp] theorem stopSeq_straps (s : State) : (stopSeq s).straps = s.straps := rfl
@[simp] theorem stopSeq_life (s : State) : (stopSeq s).life = s.life := rfl
@[simp] theorem stopSeq_fault (s : State) : (stopSeq s).fault = s.fault := rfl
@[simp] theorem stopSeq_mode (s : State) : (stopSeq s).mode = s.mode := rfl
@[simp] theorem stopSeq_init4Done (s : State) : (stopSeq s).init4Done = s.init4Done := rfl
@[simp] theorem stopSeq_line (s : State) : (stopSeq s).line = s.line := rfl
@[simp] theorem stopSeq_pb (s : State) : (stopSeq s).pb = s.pb := rfl
@[simp] theorem stopSeq_seqPc (s : State) : (stopSeq s).seqPc = none := rfl
@[simp] theorem stopSeq_pk (s : State) : (stopSeq s).pk = s.pk := rfl
@[simp] theorem stopSeq_trace (s : State) : (stopSeq s).trace = s.trace := rfl
@[simp] theorem stopSeq_log (s : State) : (stopSeq s).log = s.log := rfl
@[simp] theorem stopSeq_client (s : State) : (stopSeq s).client = s.client := rfl
@[simp] theorem stopSeq_responses (s : State) : (stopSeq s).responses = s.responses := rfl
@[simp] theorem stopSeq_pending (s : State) : (stopSeq s).pending = s.pending := rfl

/-! ### respond -/

@[simp] theorem respond_straps (s : State) (r : Response) : (respond s r).straps = s.straps := rfl
@[simp] theorem respond_life (s : State) (r : Response) : (respond s r).life = s.life := rfl
@[simp] theorem respond_fault (s : State) (r : Response) : (respond s r).fault = s.fault := rfl
@[simp] theorem respond_mode (s : State) (r : Response) : (respond s r).mode = s.mode := rfl
@[simp] theorem respond_init4Done (s : State) (r : Response) : (respond s r).init4Done = s.init4Done := rfl
@[simp] theorem respond_line (s : State) (r : Response) : (respond s r).line = s.line := rfl
@[simp] theorem respond_pb (s : State) (r : Response) : (respond s r).pb = s.pb := rfl
@[simp] theorem respond_seqPc (s : State) (r : Response) : (respond s r).seqPc = s.seqPc := rfl
@[simp] theorem respond_pk (s : State) (r : Response) : (respond s r).pk = s.pk := rfl
@[simp] theorem respond_trace (s : State) (r : Response) : (respond s r).trace = s.trace := rfl
@[simp] theorem respond_log (s : State) (r : Response) : (respond s r).log = s.log := rfl
@[simp] theorem respond_client (s : State) (r : Response) : (respond s r).client = s.client := rfl
@[simp] theorem respond_responses (s : State) (r : Response) : (respond s r).responses = s.responses ++ [r] := rfl
@[simp] theorem respond_pending (s : State) (r : Response) : (respond s r).pending = s.pending := rfl

/-! ### raise -/

@[simp] theorem raise_straps (s : State) (c : BitVec 3) (info : BitVec 32) : (raise s c info).straps = s.straps := rfl
@[simp] theorem raise_life (s : State) (c : BitVec 3) (info : BitVec 32) : (raise s c info).life = .fault := rfl
@[simp] theorem raise_fault (s : State) (c : BitVec 3) (info : BitVec 32) :
    (raise s c info).fault = if s.fault.cause = causeNone then { cause := c, info := info } else s.fault :=
  rfl
@[simp] theorem raise_mode (s : State) (c : BitVec 3) (info : BitVec 32) : (raise s c info).mode = s.mode := rfl
@[simp] theorem raise_init4Done (s : State) (c : BitVec 3) (info : BitVec 32) :
    (raise s c info).init4Done = s.init4Done :=
  rfl
@[simp] theorem raise_line (s : State) (c : BitVec 3) (info : BitVec 32) : (raise s c info).line = s.line := rfl
@[simp] theorem raise_pb (s : State) (c : BitVec 3) (info : BitVec 32) : (raise s c info).pb = s.pb := rfl
@[simp] theorem raise_seqPc (s : State) (c : BitVec 3) (info : BitVec 32) : (raise s c info).seqPc = none := rfl
@[simp] theorem raise_pk (s : State) (c : BitVec 3) (info : BitVec 32) : (raise s c info).pk = none := rfl
@[simp] theorem raise_trace (s : State) (c : BitVec 3) (info : BitVec 32) : (raise s c info).trace = s.trace := rfl
@[simp] theorem raise_log (s : State) (c : BitVec 3) (info : BitVec 32) : (raise s c info).log = s.log := rfl
@[simp] theorem raise_client (s : State) (c : BitVec 3) (info : BitVec 32) : (raise s c info).client = s.client := rfl
@[simp] theorem raise_responses (s : State) (c : BitVec 3) (info : BitVec 32) :
    (raise s c info).responses = s.responses ++ [respFaulted c] :=
  rfl
@[simp] theorem raise_pending (s : State) (c : BitVec 3) (info : BitVec 32) :
    (raise s c info).pending = s.pending :=
  rfl

/-! ### startCursor -/

@[simp] theorem startCursor_straps (s : State) : (startCursor s).straps = s.straps := rfl
@[simp] theorem startCursor_life (s : State) : (startCursor s).life = s.life := rfl
@[simp] theorem startCursor_fault (s : State) : (startCursor s).fault = s.fault := rfl
@[simp] theorem startCursor_mode (s : State) : (startCursor s).mode = s.mode := rfl
@[simp] theorem startCursor_init4Done (s : State) : (startCursor s).init4Done = s.init4Done := rfl
@[simp] theorem startCursor_line (s : State) : (startCursor s).line = s.line := rfl
@[simp] theorem startCursor_pb (s : State) : (startCursor s).pb = s.pb := rfl
@[simp] theorem startCursor_seqPc (s : State) : (startCursor s).seqPc = s.seqPc := rfl
@[simp] theorem startCursor_pk (s : State) : (startCursor s).pk = some (0, 0) := rfl
@[simp] theorem startCursor_trace (s : State) : (startCursor s).trace = s.trace := rfl
@[simp] theorem startCursor_log (s : State) : (startCursor s).log = s.log := rfl
@[simp] theorem startCursor_client (s : State) : (startCursor s).client = s.client := rfl
@[simp] theorem startCursor_responses (s : State) : (startCursor s).responses = s.responses := rfl
@[simp] theorem startCursor_pending (s : State) : (startCursor s).pending = s.pending := rfl

/-! ### advanceCursor -/

@[simp] theorem advanceCursor_straps (s : State) : (advanceCursor s).straps = s.straps := rfl
@[simp] theorem advanceCursor_life (s : State) : (advanceCursor s).life = s.life := rfl
@[simp] theorem advanceCursor_fault (s : State) : (advanceCursor s).fault = s.fault := rfl
@[simp] theorem advanceCursor_mode (s : State) : (advanceCursor s).mode = s.mode := rfl
@[simp] theorem advanceCursor_init4Done (s : State) : (advanceCursor s).init4Done = s.init4Done := rfl
@[simp] theorem advanceCursor_line (s : State) : (advanceCursor s).line = s.line := rfl
@[simp] theorem advanceCursor_pb (s : State) : (advanceCursor s).pb = s.pb := rfl
@[simp] theorem advanceCursor_seqPc (s : State) : (advanceCursor s).seqPc = s.seqPc := rfl
@[simp] theorem advanceCursor_pk (s : State) : (advanceCursor s).pk = some (nextCursor s.straps (cursor s)) := rfl
@[simp] theorem advanceCursor_trace (s : State) : (advanceCursor s).trace = s.trace := rfl
@[simp] theorem advanceCursor_log (s : State) : (advanceCursor s).log = s.log := rfl
@[simp] theorem advanceCursor_client (s : State) : (advanceCursor s).client = s.client := rfl
@[simp] theorem advanceCursor_responses (s : State) : (advanceCursor s).responses = s.responses := rfl
@[simp] theorem advanceCursor_pending (s : State) : (advanceCursor s).pending = s.pending := rfl

/-! ### stopCursor -/

@[simp] theorem stopCursor_straps (s : State) : (stopCursor s).straps = s.straps := rfl
@[simp] theorem stopCursor_life (s : State) : (stopCursor s).life = s.life := rfl
@[simp] theorem stopCursor_fault (s : State) : (stopCursor s).fault = s.fault := rfl
@[simp] theorem stopCursor_mode (s : State) : (stopCursor s).mode = s.mode := rfl
@[simp] theorem stopCursor_init4Done (s : State) : (stopCursor s).init4Done = s.init4Done := rfl
@[simp] theorem stopCursor_line (s : State) : (stopCursor s).line = s.line := rfl
@[simp] theorem stopCursor_pb (s : State) : (stopCursor s).pb = s.pb := rfl
@[simp] theorem stopCursor_seqPc (s : State) : (stopCursor s).seqPc = s.seqPc := rfl
@[simp] theorem stopCursor_pk (s : State) : (stopCursor s).pk = none := rfl
@[simp] theorem stopCursor_trace (s : State) : (stopCursor s).trace = s.trace := rfl
@[simp] theorem stopCursor_log (s : State) : (stopCursor s).log = s.log := rfl
@[simp] theorem stopCursor_client (s : State) : (stopCursor s).client = s.client := rfl
@[simp] theorem stopCursor_responses (s : State) : (stopCursor s).responses = s.responses := rfl
@[simp] theorem stopCursor_pending (s : State) : (stopCursor s).pending = s.pending := rfl

/-! ### runPseudo -/

@[simp] theorem runPseudo_straps (p : Pseudo) (s : State) : (runPseudo p s).straps = s.straps := rfl
@[simp] theorem runPseudo_life (p : Pseudo) (s : State) : (runPseudo p s).life = s.life := rfl
@[simp] theorem runPseudo_fault (p : Pseudo) (s : State) : (runPseudo p s).fault = s.fault := rfl
@[simp] theorem runPseudo_mode (p : Pseudo) (s : State) : (runPseudo p s).mode = s.mode := rfl
@[simp] theorem runPseudo_init4Done (p : Pseudo) (s : State) : (runPseudo p s).init4Done = s.init4Done := rfl
@[simp] theorem runPseudo_line (p : Pseudo) (s : State) : (runPseudo p s).line = s.line := rfl
@[simp] theorem runPseudo_pb (p : Pseudo) (s : State) : (runPseudo p s).pb = s.pb := rfl
@[simp] theorem runPseudo_seqPc (p : Pseudo) (s : State) : (runPseudo p s).seqPc = s.seqPc := rfl
@[simp] theorem runPseudo_pk (p : Pseudo) (s : State) : (runPseudo p s).pk = s.pk := rfl
@[simp] theorem runPseudo_trace (p : Pseudo) (s : State) : (runPseudo p s).trace = s.trace := rfl
@[simp] theorem runPseudo_log (p : Pseudo) (s : State) : (runPseudo p s).log = s.log := rfl
@[simp] theorem runPseudo_client (p : Pseudo) (s : State) :
    (runPseudo p s).client = clientAfter s.straps s.client p :=
  rfl
@[simp] theorem runPseudo_responses (p : Pseudo) (s : State) : (runPseudo p s).responses = s.responses := rfl
@[simp] theorem runPseudo_pending (p : Pseudo) (s : State) :
    (runPseudo p s).pending = (expansion (clientAfter s.straps s.client p) p).map (fun i => HostInput.word (encode i)) ++ s.pending :=
  rfl

end Sys2Proof.Machine
end

