-- ==== Sys2Proof/Laws/Wire.lean ====
section
/-! SUPPORT. The laws of event lists: replay, samples and the strobe contract over appended lists, and what a byte, a
nibble and a pulse do to the latches. -/

namespace Sys2Proof.Machine

@[simp] theorem replay_nil (l : Latches) : l.replay [] = l := rfl

@[simp] theorem replay_cons (l : Latches) (e : Event) (es : List Event) : l.replay (e :: es) = (l.apply e).replay es := rfl

theorem replay_append (l : Latches) (es fs : List Event) : l.replay (es ++ fs) = (l.replay es).replay fs :=
  List.foldl_append

@[simp] theorem apply_wr (l : Latches) (k : Line) (v : Level) : l.apply (.wr k v) = l.set k v := rfl

@[simp] theorem apply_openOut (l : Latches) (k : Line) : l.apply (.openOut k) = l.set k false := rfl

@[simp] theorem apply_delay (l : Latches) (n : Nat) : l.apply (.delay n) = l := rfl

@[simp] theorem apply_rel (l : Latches) (k : Line) : l.apply (.rel k) = l := rfl

@[simp] theorem get_set (l : Latches) (k j : Line) (v : Level) :
    (l.set k v).get j = if j = k then v else l.get j := by
  cases k <;> cases j <;> rfl

@[simp] theorem replay_delayOf (l : Latches) (n : Nat) : l.replay (delayOf n) = l := by
  unfold delayOf; split <;> rfl

theorem samplesFrom_append (m : Mode) (l : Latches) (es fs : List Event) :
    samplesFrom m l (es ++ fs) = samplesFrom m l es ++ samplesFrom m (l.replay es) fs := by
  induction es generalizing l with
  | nil => rfl
  | cons e es ih =>
    simp [samplesFrom, ih]

@[simp] theorem samplesFrom_delayOf (m : Mode) (l : Latches) (n : Nat) : samplesFrom m l (delayOf n) = [] := by
  unfold delayOf; split <;> rfl

theorem wellPulsed_append {es fs : List Event} (h : wellPulsed es = true) : wellPulsed (es ++ fs) = wellPulsed fs := by
  induction es using wellPulsed.induct with
  | case1 => rfl
  | case2 n es ih =>
    simp only [wellPulsed, Bool.and_eq_true] at h
    simp [wellPulsed, h.1, h.2.1, ih h.2.2]
  | case3 v es hne =>
    unfold wellPulsed at h
    split at h <;> simp_all
    obtain ⟨rfl, rfl⟩ := ‹_ ∧ _›
    cases v <;> simp_all
  | case4 e es h1 h2 ih =>
    have : wellPulsed (e :: es) = wellPulsed es := by
      cases e with
      | wr k v => cases k <;> first | rfl | exact absurd rfl (h2 v)
      | _ => rfl
    rw [this] at h
    have h3 : wellPulsed (e :: (es ++ fs)) = wellPulsed (es ++ fs) := by
      cases e with
      | wr k v => cases k <;> first | rfl | exact absurd rfl (h2 v)
      | _ => rfl
    rw [List.cons_append, h3, ih h]

@[simp] theorem replay_strobe (c : Straps) (l : Latches) : l.replay (strobe c) = { l with e := false } := by
  simp [strobe, replay_append, Latches.set]

/-- One strobe takes exactly one sample, of the latches as they stand (R122, R131). -/
@[simp] theorem samplesFrom_strobe (m : Mode) (c : Straps) (l : Latches) : samplesFrom m l (strobe c) = [sampleOf m l] := by
  simp [strobe, samplesFrom_append, samplesFrom, sampleAt]

theorem wellPulsed_delayOf (n : Nat) : wellPulsed (delayOf n) = true := by
  unfold delayOf; split <;> rfl

/-- The hold of one strobe meets the least strobe width (R9, R132). -/
theorem tEhMinNs_le_hold : Config.tEhMinNs ≤ Config.holdUs * 1000 := Nat.le_of_lt_succ Config.tEhMin.isLt

/-- One strobe without its OPEN delays keeps the contract (R74, R236). -/
theorem wellPulsed_pulse : wellPulsed [.wr .e true, .delay Config.holdUs, .wr .e false] = true := by
  have h := tEhMinNs_le_hold
  simp only [Config.holdUs] at h
  simp [wellPulsed, Config.holdUs, h]

/-- Every strobe keeps the contract (R122, R220). -/
theorem wellPulsed_strobe (c : Straps) : wellPulsed (strobe c) = true := by
  rw [strobe, List.append_assoc, wellPulsed_append (wellPulsed_delayOf _), wellPulsed_append wellPulsed_pulse]
  exact wellPulsed_delayOf _

theorem driveData_full {k : Nat} (p : BitVec k) :
    driveData .full p = [.wr .d0 (p.getLsbD 0), .wr .d1 (p.getLsbD 1), .wr .d2 (p.getLsbD 2), .wr .d3 (p.getLsbD 3),
      .wr .d4 (p.getLsbD 4), .wr .d5 (p.getLsbD 5), .wr .d6 (p.getLsbD 6), .wr .d7 (p.getLsbD 7)] := rfl

theorem driveData_half {k : Nat} (p : BitVec k) :
    driveData .half p =
      [.wr .d0 (p.getLsbD 0), .wr .d1 (p.getLsbD 1), .wr .d2 (p.getLsbD 2), .wr .d3 (p.getLsbD 3)] := rfl

@[simp] theorem replay_driveRS (l : Latches) (rs : Level) : l.replay (driveRS rs) = { l with rs := rs } := rfl

@[simp] theorem replay_driveData_full (l : Latches) {k : Nat} (p : BitVec k) :
    l.replay (driveData .full p) =
      { l with d0 := p.getLsbD 0, d1 := p.getLsbD 1, d2 := p.getLsbD 2, d3 := p.getLsbD 3, d4 := p.getLsbD 4,
               d5 := p.getLsbD 5, d6 := p.getLsbD 6, d7 := p.getLsbD 7 } := rfl

@[simp] theorem replay_driveData_half (l : Latches) {k : Nat} (p : BitVec k) :
    l.replay (driveData .half p) =
      { l with d0 := p.getLsbD 0, d1 := p.getLsbD 1, d2 := p.getLsbD 2, d3 := p.getLsbD 3 } := rfl

@[simp] theorem samplesFrom_driveRS (m : Mode) (l : Latches) (rs : Level) : samplesFrom m l (driveRS rs) = [] := rfl

@[simp] theorem samplesFrom_driveData (m n : Mode) (l : Latches) {k : Nat} (p : BitVec k) :
    samplesFrom m l (driveData n p) = [] := by
  cases n <;> rfl

theorem wellPulsed_driveRS (rs : Level) : wellPulsed (driveRS rs) = true := rfl

theorem wellPulsed_driveData (m : Mode) {k : Nat} (p : BitVec k) : wellPulsed (driveData m p) = true := by
  cases m <;> rfl

end Sys2Proof.Machine
end

