-- ==== Sys2Proof/Laws/Ops.lean ====
section
/-! SUPPORT. One lemma for each shared operation that says once all it can do. -/

namespace Sys2Proof.Machine

/-! ### The sequencer -/

/-- All that emitting a list of events does: `T` grows by the list, the latches replay it, `seq.pc` advances by its length
(R27, R133). -/
theorem emitAll_eq (s : State) (es : List Event) :
    emitAll s es =
      { s with trace := s.trace ++ es, line := s.line.replay es, seqPc := s.seqPc.map (· + es.length) } := by
  induction es generalizing s with
  | nil => cases s; simp [emitAll]
  | cons e es ih =>
    have step : emitAll s (e :: es) = emitAll (emit s e) es := rfl
    rw [step, ih]
    simp [emit, Option.map_map, Function.comp_def, Nat.add_assoc, Nat.add_comm 1]

/-- All that performing a request's list does (R133). -/
theorem perform_eq (s : State) (es : List Event) :
    perform s es = { s with trace := s.trace ++ es, line := s.line.replay es, seqPc := none } := by
  simp [perform, emitAll_eq, startSeq, stopSeq]

/-- All that one byte on the bus does (R124, R125, R130). -/
theorem transferByte_eq (s : State) (rs : Level) (b : Byte) :
    transferByte s rs b =
      { s with
        trace := s.trace ++ xferEvents s.straps s.mode rs b
        line := s.line.replay (xferEvents s.straps s.mode rs b)
        seqPc := s.seqPc.map (· + (xferEvents s.straps s.mode rs b).length)
        log := s.log ++ [.byte rs b] } := by
  simp [transferByte, emitAll_eq, logAll]

/-! ### Accepting a request -/

/-- An idle block in READY executes the request (R188). -/
theorem accept_ready {s : State} (hp : s.seqPc = none) (hl : s.life = .ready)
    (body : State → Host.Outcome State Fault Refusal) : accept s body = body s := by
  simp [accept, hp, hl]

/-- An idle block in FAULT or RELEASED refuses it (R191). -/
theorem accept_refused {s : State} (hp : s.seqPc = none) (hl : s.life ≠ .ready)
    (body : State → Host.Outcome State Fault Refusal) : accept s body = .next (respond s respRefused) := by
  unfold accept
  rw [hp]
  cases h : s.life <;> first | rfl | exact absurd h hl

/-- All the ways an accepted request answers a next state (R133, R188, R191). -/
theorem accept_next {s t : State} {body : State → Host.Outcome State Fault Refusal} (h : accept s body = .next t) :
    s.seqPc = none ∧
      (s.life = .ready ∧ body s = .next t ∨ s.life ≠ .ready ∧ t = respond s respRefused) := by
  unfold accept at h
  split at h
  · cases h
  · refine ⟨‹_›, ?_⟩
    split at h
    · exact .inl ⟨‹_›, h⟩
    · cases h; exact .inr ⟨by simp [*], rfl⟩
    · cases h; exact .inr ⟨by simp [*], rfl⟩

/-- An illegal word in READY takes the fault (R184). -/
theorem illegalRequest_ready {s : State} (hp : s.seqPc = none) (hl : s.life = .ready) (w : ReqWord) :
    illegalRequest w s = .next (raise s causeIllegal w) := accept_ready hp hl _

/-! ### Pixel cells -/

/-- A cell of the buffer reads as stored (R14). -/
theorem readCell_ok {s : State} {a : Nat} (h : a < cellCount s.straps) : readCell s a = .ok (Memory.read s.pb a) := by
  simp [readCell, h]

/-- A cell of the buffer is written, and nothing else (R14). -/
theorem writeCell_ok {s : State} {a : Nat} (h : a < cellCount s.straps) (v : Byte) :
    writeCell s a v = .ok { s with pb := Memory.write s.pb a v } := by
  simp [writeCell, h]

/-- Cells of the buffer read as stored, in order. -/
theorem readCells_ok {s : State} {as : List Nat} (h : ∀ a ∈ as, a < cellCount s.straps) :
    readCells s as = .ok (as.map (Memory.read s.pb)) := by
  induction as with
  | nil => rfl
  | cons a as ih =>
    simp [readCells, readCell_ok (h a (by simp)), ih fun b hb => h b (by simp [hb])]

/-- Cells of the buffer are filled, and nothing else. -/
theorem fillCells_ok {s : State} {as : List Nat} (h : ∀ a ∈ as, a < cellCount s.straps) (v : Byte) :
    fillCells s v as = .ok { s with pb := as.foldl (fun m a => Memory.write m a v) s.pb } := by
  induction as generalizing s with
  | nil => rfl
  | cons a as ih =>
    simp only [fillCells, writeCell_ok (h a (by simp))]
    exact ih (s := { s with pb := Memory.write s.pb a v }) fun b hb => h b (by simp [hb])

/-- Filling cells keeps the canonical form. -/
theorem wf_fill {m : Memory} (h : Memory.wf m = true) (v : Byte) (as : List Nat) :
    Memory.wf (as.foldl (fun m a => Memory.write m a v) m) = true := by
  induction as generalizing m with
  | nil => exact h
  | cons a as ih => exact ih (wf_write h a v)

/-- After filling, the filled cells read the value and the others read as before. -/
theorem read_fill {m : Memory} (h : Memory.wf m = true) (v : Byte) (as : List Nat) (b : Nat) :
    Memory.read (as.foldl (fun m a => Memory.write m a v) m) b = if b ∈ as then v else Memory.read m b := by
  induction as generalizing m with
  | nil => simp
  | cons a as ih =>
    rw [List.foldl_cons, ih (wf_write h a v)]
    by_cases hb : b ∈ as
    · simp [hb]
    · by_cases ha : b = a
      · subst ha; simp [hb, read_write_self h]
      · simp [hb, ha, read_write_other ha]

/-! ### The packed byte -/

/-- All eight cells of a packed byte lie in the buffer (R110: `0 ≤ x < W`, `r + 7 < H`). -/
theorem packAddrs_lt {c : Straps} {x r : Nat} (hx : x < c.width) (hr : r + 7 < c.height) :
    ∀ a ∈ packAddrs c x r, a < cellCount c := by
  intro a ha
  simp only [packAddrs, List.mem_map, List.mem_range] at ha
  obtain ⟨i, hi, rfl⟩ := ha
  exact cellAddr_lt hx (by omega)

/-- `PackByte(x, r)` where it is defined (R110). -/
theorem packByte_ok {s : State} {x r : Nat} (hx : x < s.straps.width) (hr : r + 7 < s.straps.height) :
    packByte s x r = .ok (packBits ((packAddrs s.straps x r).map (Memory.read s.pb))) := by
  simp [packByte, readCells_ok (packAddrs_lt hx hr)]

/-- Where reset's checks pass, the geometry is the straps themselves: between 1 and 512, the height a multiple of 8 (R8,
R181). -/
theorem geometry_of_checks {c : Straps} (h : configFailure c = none) :
    (c.width : Int) = c.widthStrap ∧ (c.height : Int) = c.heightStrap ∧ 0 < c.width ∧ c.width ≤ 512 ∧ 0 < c.height ∧
      c.height ≤ 512 ∧ c.height % 8 = 0 := by
  unfold configFailure at h
  unfold Straps.width Straps.height
  split_ifs at h
  omega

/-- A line-group's last row is inside the buffer (R58). -/
theorem lineGroup_lt {c : Straps} {L : Nat} (h : L < lineGroups c) : L * 8 + 7 < c.height := by
  unfold lineGroups at h; omega

end Sys2Proof.Machine
end

