-- ==== Sys2Proof/Laws/Dispatch.lean ====
section
/-! SUPPORT. What every request's execution and every step have in common. -/

namespace Sys2Proof.Machine

/-- Every request is presented through `accept` (R133, R188): its body sees only an idle block in READY. -/
theorem exec_accept (i : Instr) : ∃ body, ∀ s, exec i s = accept s body := by
  cases i <;> exact ⟨fun s => _, fun s => rfl⟩

/-- An idle block that is not READY refuses every request (R191). -/
theorem exec_refused {s : State} (hp : s.seqPc = none) (hl : s.life ≠ .ready) (i : Instr) :
    exec i s = .next (respond s respRefused) := by
  obtain ⟨body, h⟩ := exec_accept i
  rw [h, accept_refused hp hl]

/-- All the ways a step answers a next state: no input, a client procedure, a legal word, an illegal word (R62, R86,
R165). -/
theorem step_cases {s t : State} (h : step s = .next t) :
    (s.pending = [] ∧ t = s) ∨
      (∃ p rest, s.pending = .pseudo p :: rest ∧ t = runPseudo p { s with pending := rest }) ∨
      (∃ w rest i, s.pending = .word w :: rest ∧ decode w = .request i ∧
        exec i { s with pending := rest } = .next t) ∨
      ∃ w rest why, s.pending = .word w :: rest ∧ decode w = .illegal why ∧
        illegalRequest w { s with pending := rest } = .next t := by
  unfold step takeInput at h
  split at h
  · cases h; exact .inl ⟨‹_›, rfl⟩
  · rename_i inp rest hpend
    cases inp with
    | pseudo p => cases h; exact .inr (.inl ⟨p, rest, hpend, rfl⟩)
    | word w =>
      simp only [runInput, runWord] at h
      split at h
      · exact .inr (.inr (.inl ⟨w, rest, _, hpend, ‹_›, h⟩))
      · exact .inr (.inr (.inr ⟨w, rest, _, hpend, ‹_›, h⟩))

end Sys2Proof.Machine
end

