-- ==== Sys2Proof/Laws/PerInstr.lean ====
section
/-! SUPPORT. Facts about each request as syntax, one lemma for each constructor. -/

namespace Sys2Proof

theorem opField_encodeP (op : BitVec 4) (x y : Int) (v : Byte) : opField (encodeP op x y v) = op := by
  apply BitVec.eq_of_getLsbD_eq
  intro i hi
  interval_cases i <;> simp [opField, encodeP, placeField]

theorem opField_encodeT (op : BitVec 4) (rs : Level) (b : Byte) : opField (encodeT op rs b) = op := by
  apply BitVec.eq_of_getLsbD_eq
  intro i hi
  interval_cases i <;> simp [opField, encodeT, placeField]

theorem opField_encodeZ (op : BitVec 4) : opField (encodeZ op) = op := by
  apply BitVec.eq_of_getLsbD_eq
  intro i hi
  interval_cases i <;> simp [opField, encodeZ, placeField]

/-- The top four bits of a request's word are its opcode in the map of R83. -/
def Laws.EncodeHoldsOpcode.Statement (i : Instr) : Prop := opField (encode i) = opcode i

theorem Laws.EncodeHoldsOpcode.pset (x y : Int) (v : Byte) : Laws.EncodeHoldsOpcode.Statement (.pset x y v) :=
  opField_encodeP _ x y v

theorem Laws.EncodeHoldsOpcode.pget (x y : Int) : Laws.EncodeHoldsOpcode.Statement (.pget x y) :=
  opField_encodeP _ x y 0

theorem Laws.EncodeHoldsOpcode.pclr : Laws.EncodeHoldsOpcode.Statement .pclr := opField_encodeZ _

theorem Laws.EncodeHoldsOpcode.pack : Laws.EncodeHoldsOpcode.Statement .pack := opField_encodeZ _

theorem Laws.EncodeHoldsOpcode.xfer (rs : Level) (b : Byte) : Laws.EncodeHoldsOpcode.Statement (.xfer rs b) :=
  opField_encodeT _ rs b

theorem Laws.EncodeHoldsOpcode.nib (rs : Level) (n : Nibble) : Laws.EncodeHoldsOpcode.Statement (.nib rs n) :=
  opField_encodeT _ rs _

theorem Laws.EncodeHoldsOpcode.init4 : Laws.EncodeHoldsOpcode.Statement .init4 := opField_encodeZ _

theorem Laws.EncodeHoldsOpcode.release : Laws.EncodeHoldsOpcode.Statement .release := opField_encodeZ _

theorem Laws.EncodeHoldsOpcode.refresh : Laws.EncodeHoldsOpcode.Statement .refresh := opField_encodeZ _

end Sys2Proof
end

