-- ==== Sys2Proof/Machine/Text.lean ====
section
/-! DEFINITION. The textual syntax of requests (spec/30_encoding.md R88, R89): one request per line, `MNEMONIC operand,
operand, …`, upper-case mnemonics, numbers decimal or with `0x` or `0b`, a minus sign before a coordinate, `;` before a
comment. A text is a list of characters; a text of any other form stands for no request (log 14). -/

namespace Sys2Proof.Machine

/-- The value of a digit in a base up to 16. -/
def digitOf (base : Nat) (c : Char) : Option Nat :=
  let n := c.toNat
  let v :=
    if 48 ≤ n ∧ n ≤ 57 then n - 48
    else if 97 ≤ n ∧ n ≤ 102 then n - 87
    else if 65 ≤ n ∧ n ≤ 70 then n - 55
    else base
  if v < base then some v else none

/-- The digits of a number, read after `acc`. -/
def digitsFrom (base : Nat) : Nat → List Char → Option Nat
  | acc, [] => some acc
  | acc, c :: cs =>
    match digitOf base c with
    | some d => digitsFrom base (acc * base + d) cs
    | none => none

/-- A number has at least one digit. -/
def digitsOf (base : Nat) : List Char → Option Nat
  | [] => none
  | c :: cs => digitsFrom base 0 (c :: cs)

/-- A number: decimal, hexadecimal with `0x`, or binary with `0b` (R88). -/
def numberOf : List Char → Option Nat
  | '0' :: 'x' :: cs => digitsOf 16 cs
  | '0' :: 'b' :: cs => digitsOf 2 cs
  | cs => digitsOf 10 cs

/-- A coordinate may carry a minus sign (R88). -/
def coordinateOf : List Char → Option Int
  | '-' :: cs => (numberOf cs).map fun n => -(n : Int)
  | cs => (numberOf cs).map fun n => (n : Int)

/-- The text with blanks at both ends dropped. -/
def trimText (cs : List Char) : List Char :=
  (((cs.dropWhile (· == ' ')).reverse).dropWhile (· == ' ')).reverse

/-- The text before a comment (R88). -/
def beforeComment (cs : List Char) : List Char := cs.takeWhile (· != ';')

/-- The parts of a text between commas, in order. -/
def splitCommas : List Char → List (List Char)
  | [] => [[]]
  | c :: cs =>
    match splitCommas cs with
    | [] => [[c]]
    | p :: ps => if c == ',' then [] :: p :: ps else (c :: p) :: ps

/-- The operands of a line: none for an empty text, otherwise the parts between commas. -/
def operandsOf (cs : List Char) : List (List Char) :=
  match trimText cs with
  | [] => []
  | c :: cs => (splitCommas (c :: cs)).map trimText

/-- A level operand, 0 or 1 (R79). -/
def levelOf (cs : List Char) : Option Level :=
  match numberOf cs with
  | some 0 => some false
  | some 1 => some true
  | _ => none

/-- A byte operand. -/
def byteOperand (cs : List Char) : Option Byte :=
  match numberOf cs with
  | some n => if n < 256 then some (BitVec.ofNat 8 n) else none
  | none => none

/-- A nibble operand. -/
def nibbleOperand (cs : List Char) : Option Nibble :=
  match numberOf cs with
  | some n => if n < 16 then some (BitVec.ofNat 4 n) else none
  | none => none

/-- A request that fits its word, or none. -/
def fitting (i : Instr) : Option Instr := if WellFormed i then some i else none

/-- The request a mnemonic and its operands stand for, in D00's argument order with `rs` first (R88), and the two
pseudo-instructions of the block, `CMD b` and `DATA b` (R89). -/
def requestOf (mnemonic : List Char) (ops : List (List Char)) : Option Instr :=
  match mnemonic, ops with
  | ['P', 'S', 'E', 'T'], [x, y, v] =>
    match coordinateOf x, coordinateOf y, byteOperand v with
    | some x, some y, some v => fitting (.pset x y v)
    | _, _, _ => none
  | ['P', 'G', 'E', 'T'], [x, y] =>
    match coordinateOf x, coordinateOf y with
    | some x, some y => fitting (.pget x y)
    | _, _ => none
  | ['P', 'C', 'L', 'R'], [] => some .pclr
  | ['P', 'A', 'C', 'K'], [] => some .pack
  | ['X', 'F', 'E', 'R'], [rs, b] =>
    match levelOf rs, byteOperand b with
    | some rs, some b => some (.xfer rs b)
    | _, _ => none
  | ['N', 'I', 'B'], [rs, n] =>
    match levelOf rs, nibbleOperand n with
    | some rs, some n => some (.nib rs n)
    | _, _ => none
  | ['I', 'N', 'I', 'T', '4'], [] => some .init4
  | ['R', 'E', 'L', 'E', 'A', 'S', 'E'], [] => some .release
  | ['R', 'E', 'F', 'R', 'E', 'S', 'H'], [] => some .refresh
  | ['C', 'M', 'D'], [b] => (byteOperand b).map (.xfer false)
  | ['D', 'A', 'T', 'A'], [b] => (byteOperand b).map (.xfer true)
  | _, _ => none

/-- The request a line of text stands for (R88). -/
def parseLine (line : List Char) : Option Instr :=
  let t := trimText (beforeComment line)
  requestOf (t.takeWhile (· != ' ')) (operandsOf (t.dropWhile (· != ' ')))

end Sys2Proof.Machine
end

