-- ==== Sys2Proof/Tests/Slice0.lean ====
section
/-! SUPPORT. Tests of one step each, with the vectors of spec/95_test_vectors.md (V<n>) and words written out from
spec/30_encoding.md; and, for each statement with hypotheses, a state and operands that meet them (`witness_<statement>`). -/

namespace Sys2Proof.Tests

open Sys2Proof Sys2Proof.Machine

/-! ## Helpers -/

/-- Legal straps of a data width and a geometry; `FS4_NIBBLE` is 2, as the vectors have it. -/
def straps (n w h : Nat) : Straps :=
  { dataWidth := n, nData := n, widthStrap := w, heightStrap := h, displayLines := 2, fontHeight := 8, fontVariant := 0,
    tSetup := 0, tEl := 0, tPost := 0, fs4Nibble := 2 }

/-- The state after reset in FULL mode. -/
def full (w h : Nat) : State := State.construct (straps 8 w h)

/-- The state after reset in HALF mode. -/
def half (w h : Nat) : State := State.construct (straps 4 w h)

/-- A state with other pixel cells. -/
def withPixels (s : State) (pb : Memory) : State := { s with pb := pb }

/-- A state whose host presents inputs. -/
def presenting (s : State) (hs : List HostInput) : State := { s with pending := hs }

/-- A view of the next state, if there is one. -/
def view {α : Type} (f : State → α) (o : Host.Outcome State Fault Refusal) : Option α :=
  match o with
  | .next t => some (f t)
  | .fault _ => none
  | .refused _ => none

/-- The last response. -/
def lastResponse (s : State) : Option (List Byte × RespWord) := s.responses.getLast?.map fun r => (r.stream, r.word)

/-- The events after those that stood in the trace of reset, of `n` events. -/
def newEvents (n : Nat) (s : State) : List Event := s.trace.drop n

/-- The strobe's three events (R122). -/
def pulse : List Event := [.wr .e true, .delay 1, .wr .e false]

/-! ## WellFormed: one ill-formed term for each check -/

theorem test_pset_x_too_low : WellFormed (.pset (-513) 0 1) = false := by decide
theorem test_pset_x_too_high : WellFormed (.pset 512 0 1) = false := by decide
theorem test_pset_y_too_low : WellFormed (.pset 0 (-513) 1) = false := by decide
theorem test_pset_y_too_high : WellFormed (.pset 0 512 1) = false := by decide
theorem test_pget_x_too_low : WellFormed (.pget (-513) 0) = false := by decide
theorem test_pget_x_too_high : WellFormed (.pget 512 0) = false := by decide
theorem test_pget_y_too_low : WellFormed (.pget 0 (-513)) = false := by decide
theorem test_pget_y_too_high : WellFormed (.pget 0 512) = false := by decide

/-! ## Decoding: words written out field by field from R79 to R83 -/

/-- OP 0001, X 0000000011, Y 0000000101, V 00000001 (V1). -/
theorem test_decode_pset : decode 0b00010000000011000000010100000001 = .request (.pset 3 5 1) := by decide

/-- OP 0001, X 1111111111, Y 0000000000, V 00000001 (V4): a coordinate below 0. -/
theorem test_decode_pset_negative : decode 0b00011111111111000000000000000001 = .request (.pset (-1) 0 1) := by decide

/-- OP 0010, X 0000001000, Y 0000000000, V zero (V9). -/
theorem test_decode_pget : decode 0b00100000001000000000000000000000 = .request (.pget 8 0) := by decide

/-- OP 0011, zeros. -/
theorem test_decode_pclr : decode 0b00110000000000000000000000000000 = .request .pclr := by decide

/-- OP 0100, zeros. -/
theorem test_decode_pack : decode 0b01000000000000000000000000000000 = .request .pack := by decide

/-- OP 0101, zeros, RS 1, B 10101011 (V31). -/
theorem test_decode_xfer : decode 0b01010000000000000000000110101011 = .request (.xfer true 0xAB) := by decide

/-- OP 0110, zeros, RS 1, B[7:4] zero, B[3:0] 1111 (V37). -/
theorem test_decode_nib : decode 0b01100000000000000000000100001111 = .request (.nib true 0xF) := by decide

/-- OP 0111, zeros. -/
theorem test_decode_init4 : decode 0b01110000000000000000000000000000 = .request .init4 := by decide

/-- OP 1000, zeros. -/
theorem test_decode_release : decode 0b10000000000000000000000000000000 = .request .release := by decide

/-- OP 1001, zeros. -/
theorem test_decode_refresh : decode 0b10010000000000000000000000000000 = .request .refresh := by decide

/-- V72 to V74: reserved opcodes. -/
theorem test_reserved_opcodes :
    decode 0x00000000 = .illegal .reservedOpcode ∧ decode 0xA0000000 = .illegal .reservedOpcode ∧
      decode 0xF0000000 = .illegal .reservedOpcode := by decide

/-- V15, V75, V76, V78, V79: non-zero must-be-zero fields. -/
theorem test_must_be_zero :
    decode 0x200C0501 = .illegal .mustBeZero ∧ decode 0x50000200 = .illegal .mustBeZero ∧
      decode 0x60000012 = .illegal .mustBeZero ∧ decode 0x30000001 = .illegal .mustBeZero ∧
      decode 0x90000001 = .illegal .mustBeZero := by decide

/-- The words of V4, V8, V11, V30 and P4, encoded. -/
theorem test_encode :
    encode (.pset (-1) 0 1) = 0x1FFC0001 ∧ encode (.pset (-512) 511 7) = 0x1801FF07 ∧
      encode (.pset 7 7 0xFF) = 0x101C07FF ∧ encode (.xfer true 0xA5) = 0x500001A5 ∧
      encode (.nib true 0xF) = 0x6000010F := by decide

theorem test_table_word : decodeTableWord 32 0x500001AB = some (.xfer true 0xAB) := by decide

/-! ## Text (R88, R89) -/

theorem test_text_pset : parseLine "PSET 3, 5, 1".toList = some (.pset 3 5 1) := by decide
theorem test_text_negative : parseLine " PGET -1,0b101 ; a comment".toList = some (.pget (-1) 5) := by decide
theorem test_text_xfer : parseLine "XFER 1, 0xAB".toList = some (.xfer true 0xAB) := by decide
theorem test_text_data : parseLine "DATA 0x41".toList = some (.xfer true 0x41) := by decide
theorem test_text_bad : parseLine "XFER 1, 0x100".toList = none := by decide

/-! ## Reset (V50 to V60) -/

theorem test_reset_failures :
    (State.construct (straps 3 4 8)).fault = { cause := 1, info := 1 } ∧
      (State.construct { straps 8 4 8 with displayLines := 3 }).fault = { cause := 1, info := 2 } ∧
      (State.construct { straps 8 4 8 with fontHeight := 9 }).fault = { cause := 1, info := 3 } ∧
      (State.construct { straps 8 4 8 with fontVariant := 4 }).fault = { cause := 1, info := 4 } ∧
      (State.construct { straps 8 4 8 with nData := 4 }).fault = { cause := 1, info := 5 } ∧
      (State.construct (straps 4 4 12)).fault = { cause := 1, info := 6 } ∧
      (State.construct (straps 8 0 8)).fault = { cause := 1, info := 6 } ∧
      (State.construct (straps 8 513 8)).fault = { cause := 1, info := 6 } ∧
      (State.construct { straps 3 4 12 with displayLines := 7 }).fault = { cause := 1, info := 1 } := by decide

/-- R7, R8, R11: a strap is any integer, and one below 0 fails its check. -/
theorem test_reset_negative_straps :
    (State.construct { straps 8 4 8 with dataWidth := -8 }).fault = { cause := 1, info := 1 } ∧
      (State.construct { straps 8 4 8 with displayLines := -2 }).fault = { cause := 1, info := 2 } ∧
      (State.construct { straps 8 4 8 with fontHeight := -8 }).fault = { cause := 1, info := 3 } ∧
      (State.construct { straps 8 4 8 with fontVariant := -1 }).fault = { cause := 1, info := 4 } ∧
      (State.construct { straps 8 4 8 with widthStrap := -1 }).fault = { cause := 1, info := 6 } ∧
      (State.construct { straps 8 4 8 with heightStrap := -8 }).fault = { cause := 1, info := 6 } := by decide

theorem test_reset_full : (full 4 8).life = .ready ∧ (full 4 8).trace.length = 10 ∧ (full 4 8).init4Done = false := by
  decide

theorem test_reset_half : (half 4 8).life = .ready ∧ (half 4 8).trace.length = 54 ∧ (half 4 8).init4Done = true := by
  decide

/-! ## One step of each request -/

/-- V1. -/
theorem test_pset : view State.pb (exec (.pset 3 5 1) (full 8 8)) = some [(43, 1)] := by decide

/-- V7: y = H, in particular address 64 is not written. -/
theorem test_pset_out_of_range : view State.pb (exec (.pset 0 8 1) (full 8 8)) = some [] := by decide

/-- V12. -/
theorem test_pget : view lastResponse (exec (.pget 7 7) (withPixels (full 8 8) [(63, 0xFF)])) = some (some ([], 0x01FF)) := by
  decide

/-- V9: the sentinel. -/
theorem test_pget_out_of_range : view lastResponse (exec (.pget 8 0) (full 8 8)) = some (some ([], 0x0000)) := by decide

/-- V13. -/
theorem test_pclr : view State.pb (exec .pclr (withPixels (full 8 8) [(43, 1), (63, 0xFF)])) = some [] := by decide

/-- V22: bit 0 is row 0, bit 7 is row 7, and 0x80 counts as set. -/
theorem test_pack_bits :
    view lastResponse (exec .pack (withPixels (full 2 8) [(0, 1), (7, 0x80), (14, 1)])) =
      some (some ([0x81, 0x08], 0x0000)) := by decide

/-- V24: line-groups outer, columns inner. -/
theorem test_pack_order :
    view lastResponse (exec .pack (withPixels (half 2 16) [(0, 1), (19, 2), (30, 0xFF)])) =
      some (some ([0x01, 0x00, 0x80, 0x02], 0x0000)) := by decide

/-- V30. -/
theorem test_xfer_full :
    view (newEvents 10) (exec (.xfer true 0xA5) (full 4 8)) =
      some ([.wr .rs true, .wr .d0 true, .wr .d1 false, .wr .d2 true, .wr .d3 false, .wr .d4 false, .wr .d5 true,
        .wr .d6 false, .wr .d7 true] ++ pulse) := by decide

/-- V31: the source's own example. -/
theorem test_xfer_half :
    view (newEvents 54) (exec (.xfer true 0xAB) (half 2 8)) =
      some ([.wr .rs true, .wr .d0 false, .wr .d1 true, .wr .d2 false, .wr .d3 true] ++ pulse ++
        [.wr .d0 true, .wr .d1 true, .wr .d2 false, .wr .d3 true] ++ pulse) := by decide

/-- V36. -/
theorem test_nib :
    view (newEvents 54) (exec (.nib false 0x2) (half 2 8)) =
      some ([.wr .rs false, .wr .d0 false, .wr .d1 true, .wr .d2 false, .wr .d3 false] ++ pulse) := by decide

/-- V70: UnimplementedCapability, no event. -/
theorem test_nib_full :
    view (fun t => (t.fault, t.trace.length)) (exec (.nib false 0) (full 4 8)) =
      some ({ cause := 3, info := 0x60000000 }, 10) := by decide

/-- V38: the samples of the six nibbles. -/
theorem test_init4 :
    view (fun t => (samplesFrom .half lowLatches (newEvents 54 t)).map Sample.payload) (exec .init4 (half 2 8)) =
      some [0, 0, 0, 0, 0, 2] := by decide

/-- V71. -/
theorem test_init4_full :
    view (fun t => (t.fault, t.init4Done)) (exec .init4 (full 4 8)) =
      some ({ cause := 3, info := 0x70000000 }, false) := by decide

/-- V39. -/
theorem test_release_full :
    view (fun t => (t.life, newEvents 10 t)) (exec .release (full 4 8)) =
      some (.released, [.rel .rs, .rel .e, .rel .d0, .rel .d1, .rel .d2, .rel .d3, .rel .d4, .rel .d5, .rel .d6,
        .rel .d7]) := by decide

/-- V40. -/
theorem test_release_half :
    view (fun t => (t.life, newEvents 54 t)) (exec .release (half 4 8)) =
      some (.released, [.rel .rs, .rel .e, .rel .d0, .rel .d1, .rel .d2, .rel .d3]) := by decide

/-- V45. -/
theorem test_refresh_full :
    view (fun t => (t.log, (newEvents 10 t).length)) (exec .refresh (withPixels (full 2 8) [(1, 1)])) =
      some ([.byte true 0x00, .byte true 0x01], 24) := by decide

/-- P2, step 7: the samples of the refresh in HALF mode. -/
theorem test_refresh_half :
    view (fun t => (samplesFrom .half lowLatches (newEvents 54 t)).map Sample.payload)
        (exec .refresh (withPixels (half 2 16) [(0, 1), (19, 2), (30, 0xFF)])) =
      some [0x0, 0x1, 0x0, 0x0, 0x8, 0x0, 0x0, 0x2] := by decide

/-! ## Illegal words, refusals, the client -/

/-- V77: the illegal-word check comes before the capability check. -/
theorem test_illegal_before_capability :
    view (fun t => (t.fault, lastResponse t)) (step ((full 4 8).withFetchWord 32 0x60000012)) =
      some ({ cause := 4, info := 0x60000012 }, some ([], 0x1800)) := by decide

/-- V80: in FAULT any word is refused. -/
theorem test_refused :
    view lastResponse (step ((State.construct (straps 3 4 8)).withFetchWord 32 0x00000000)) =
      some (some ([], 0x2000)) := by decide

/-- V61: cursor on sends the whole register. -/
theorem test_cursor_on (d : Byte) (s : State) (h : s.client.displayControl = d) :
    view (fun t => (t.client.displayControl, t.pending)) (step (presenting s [.pseudo cursorOn])) =
      some (d ||| Config.fCursorOn,
        [.word (encode (.xfer false (Config.displayControlCmd ||| (d ||| Config.fCursorOn))))]) := by
  subst h; rfl

/-- V68: `SETPOS 64, 0` sends the byte of `SETPOS 0, 1`. -/
theorem test_setpos_collides (c : ClientRegs) : expansion c (.setPos 64 0) = expansion c (.setPos 0 1) := rfl

/-! ## Witnesses: a state and operands that meet all the hypotheses of a statement together -/

/-- Straps with all three OPEN delays non-zero. -/
def slowStraps (n : Nat) : Straps := { straps n 2 8 with tSetup := 1, tEl := 2, tPost := 3 }

/-- A state in FAULT, after an illegal word. -/
def faulted : State := raise (full 4 8) causeIllegal 0x00000000

/-- A state in RELEASED. -/
def released : State := { half 4 8 with life := .released }

/-- A state whose shadow registers are zero and whose host presents one procedure. -/
def asking (p : Pseudo) : State :=
  { half 2 8 with
    client := { entryMode := 0, displayControl := 0, modePower := 0, displayFunction := 0 }
    pending := [.pseudo p] }

theorem witness_DecodeReadsBackEncode :
    WellFormed (.pset (-512) 511 0xFF) = true ∧ WellFormed (.pget 511 (-512)) = true := by decide

theorem witness_EncodeReadsBackDecode : decode 0x1801FF07 = .request (.pset (-512) 511 7) := by decide

theorem witness_StepRunsDecodedRequest :
    (presenting (full 4 8) [.word 0x100C0501]).pending = .word 0x100C0501 :: [] ∧
      decode 0x100C0501 = .request (.pset 3 5 1) := by decide

theorem witness_FetchedWordRunsNext : decodeTableWord 32 0x90000000 = some .refresh := by decide

/-- One word for each clause of `IllegalWord`, at the ends of the fields. -/
theorem witness_IllegalWordTakesFault :
    (Accepting (full 4 8) ∧ (full 4 8).fault.cause = 0) ∧
      (IllegalWord 0x0FFFFFFF ∧ IllegalWord 0xA0000000 ∧ IllegalWord 0xFFFFFFFF ∧ IllegalWord 0x20000001 ∧
        IllegalWord 0x20000080 ∧ IllegalWord 0x30000001 ∧ IllegalWord 0x48000000 ∧ IllegalWord 0x70000001 ∧
        IllegalWord 0x88000000 ∧ IllegalWord 0x90000001 ∧ IllegalWord 0x50000200 ∧ IllegalWord 0x58000000 ∧
        IllegalWord 0x60000200 ∧ IllegalWord 0x60000010 ∧ IllegalWord 0x60000080) := by
  refine ⟨by decide, ?_⟩
  iterate 14 refine ⟨by decide, ?_⟩
  decide

theorem witness_EveryWordRefusedWhenNotReady :
    (faulted.seqPc = none ∧ faulted.life = .fault) ∧ released.seqPc = none ∧ released.life = .released := by decide

theorem witness_BusySequencerRefusesRequests : (startSeq (full 4 8)).seqPc ≠ none := by decide

theorem witness_EveryRequestAnswersOnIdleBlock : (full 4 8).seqPc = none ∧ faulted.seqPc = none := by decide

theorem witness_SequencerCountsEmittedEvents : 0 ≤ pulse.length ∧ 3 ≤ pulse.length := by decide

theorem witness_CursorStepsColumnsThenLineGroups : 0 < (straps 8 1 8).width := by decide

/-- A state after a failed reset, and straps at the edges of the six checks. -/
theorem witness_ResetReportsFirstFailingCheck :
    (∃ t, step (presenting (State.construct (straps 3 4 8)) [.word 0x30000000]) = .next t ∧ t.fault.cause = 1) ∧
      configFailure (straps 5 4 8) = some 1 ∧ configFailure { straps 4 4 8 with displayLines := 0 } = some 2 ∧
      configFailure { straps 4 4 8 with fontHeight := 11 } = some 3 ∧
      configFailure { straps 4 4 8 with fontVariant := 4 } = some 4 ∧
      configFailure { straps 4 4 8 with nData := 5 } = some 5 ∧ configFailure (straps 4 512 520) = some 6 ∧
      configFailure (straps 4 0 8) = some 6 ∧ configFailure (straps 4 513 8) = some 6 ∧
      configFailure (straps 4 1 0) = some 6 ∧ configFailure { straps 4 4 8 with fontVariant := -1 } = some 4 ∧
      configFailure { straps 4 4 8 with heightStrap := -8 } = some 6 ∧ configFailure (straps 4 512 512) = none ∧
      configFailure { straps 8 1 8 with fontVariant := 3, fontHeight := 10, displayLines := 1 } = none :=
  ⟨⟨_, rfl, rfl⟩, by decide⟩

theorem witness_FullResetState : configFailure (straps 8 4 8) = none ∧ (straps 8 4 8).dataWidth = 8 := by decide

theorem witness_HalfResetState :
    configFailure (straps 4 2 16) = none ∧ (straps 4 2 16).dataWidth = 4 ∧ DefaultTiming (straps 4 2 16) := by decide

/-- The first and the last cell; `PgetInRangeAnswersItsCell`, `SetThenGet` and `PclrZeroesEveryCell` have the same
hypotheses or fewer. -/
theorem witness_PsetInRangeWritesItsCell :
    Accepting (full 4 8) ∧ Memory.wf (withPixels (full 4 8) [(3, 1), (31, 0xFF)]).pb = true ∧
      (0 < (full 4 8).straps.width ∧ 0 < (full 4 8).straps.height) ∧
      3 < (full 4 8).straps.width ∧ 7 < (full 4 8).straps.height := by decide

theorem witness_PgetInRangeAnswersItsCell :
    Accepting (half 4 8) ∧ 3 < (half 4 8).straps.width ∧ 7 < (half 4 8).straps.height := by decide

theorem witness_PclrZeroesEveryCell :
    Accepting (withPixels (full 4 8) [(31, 1)]) ∧ Memory.wf (withPixels (full 4 8) [(31, 1)]).pb = true := by decide

theorem witness_SetThenGet :
    Accepting (full 4 8) ∧ Memory.wf (full 4 8).pb = true ∧ 3 < (full 4 8).straps.width ∧ 7 < (full 4 8).straps.height ∧
      0 < (full 4 8).straps.width ∧ 0 < (full 4 8).straps.height := by decide

/-- Each side of each coordinate. -/
theorem witness_OutOfRangeAccessIsSilent :
    Accepting (full 4 8) ∧ (-1 : Int) < 0 ∧ ((full 4 8).straps.width : Int) ≤ 4 ∧
      ((full 4 8).straps.height : Int) ≤ 8 := by decide

/-- A group of rows that starts at a multiple of 8, and one that does not. -/
theorem witness_PackByteBitIsRow :
    1 < (half 2 16).straps.width ∧ 8 + 8 ≤ (half 2 16).straps.height ∧ 5 + 8 ≤ (half 2 16).straps.height := by decide

/-- The hypothesis of every statement that asks only for an idle block in READY, in either mode. -/
theorem witness_Accepting : Accepting (full 4 8) ∧ Accepting (half 2 16) ∧ Accepting State.reset := by decide

theorem witness_PackAnswersPackedStream : Accepting (half 2 16) := by decide

theorem witness_PackTwiceAnswersTheSame : Accepting (half 2 16) := by decide

theorem witness_PsetChangesOneBitOfStream :
    ∃ t u u' : State,
      Accepting (full 4 8) ∧ Memory.wf (full 4 8).pb = true ∧ (full 4 8).straps.height % 8 = 0 ∧
        3 < (full 4 8).straps.width ∧ 5 < (full 4 8).straps.height ∧ exec (.pset 3 5 1) (full 4 8) = .next t ∧
        exec .pack (full 4 8) = .next u ∧ u.responses = (full 4 8).responses ++ [{ stream := [0, 0, 0, 0], word := 0 }] ∧
        exec .pack t = .next u' ∧ u'.responses = t.responses ++ [{ stream := [0, 0, 0, 0x20], word := 0 }] :=
  ⟨_, _, _, by decide, by decide, by decide, by decide, by decide, rfl, rfl, by decide, rfl, by decide⟩

theorem witness_PclrMakesStreamZero :
    Accepting (withPixels (half 2 16) [(30, 2)]) ∧ Memory.wf (withPixels (half 2 16) [(30, 2)]).pb = true := by decide

/-- Two buffers that differ, with the same pixels lit. -/
theorem witness_StreamDependsOnlyOnLitPixels :
    ∃ t t' : State,
      Accepting (withPixels (full 2 8) [(3, 1)]) ∧ Accepting (withPixels (full 2 8) [(3, 0x80)]) ∧
        (∀ x, x < 2 → ∀ y, y < 8 →
          (pixel (withPixels (full 2 8) [(3, 1)]) x y != 0) = (pixel (withPixels (full 2 8) [(3, 0x80)]) x y != 0)) ∧
        exec .pack (withPixels (full 2 8) [(3, 1)]) = .next t ∧
        exec .pack (withPixels (full 2 8) [(3, 0x80)]) = .next t' :=
  ⟨_, _, by decide, by decide, by decide, rfl, rfl⟩

theorem witness_XferFullEmitsTwelveEvents :
    Accepting (full 4 8) ∧ (full 4 8).mode = .full ∧ DefaultTiming (full 4 8).straps := by decide

theorem witness_XferHalfEmitsFifteenEvents :
    Accepting (half 4 8) ∧ (half 4 8).mode = .half ∧ DefaultTiming (half 4 8).straps := by decide

/-- Both modes, with delays. -/
theorem witness_XferSamplesItsByte :
    Accepting (State.construct (slowStraps 8)) ∧ Accepting (State.construct (slowStraps 4)) := by decide

theorem witness_HalfByteWritesRsOnceFirst :
    Accepting (State.construct (slowStraps 4)) ∧ (State.construct (slowStraps 4)).mode = .half := by decide

theorem witness_DelaysStandAroundTheStrobe :
    Accepting (State.construct (slowStraps 8)) ∧ (State.construct (slowStraps 8)).mode = .full ∧
      0 < (slowStraps 8).tSetup ∧ 0 < (slowStraps 8).tEl ∧ 0 < (slowStraps 8).tPost := by decide

theorem witness_NibEmitsEightEvents :
    Accepting (half 4 8) ∧ (half 4 8).mode = .half ∧ DefaultTiming (half 4 8).straps := by decide

theorem witness_NibSamplesItsNibble :
    Accepting (State.construct (slowStraps 4)) ∧ (State.construct (slowStraps 4)).mode = .half := by decide

theorem witness_Init4SamplesSixNibbles :
    Accepting (State.construct (slowStraps 4)) ∧ (State.construct (slowStraps 4)).mode = .half := by decide

theorem witness_Init4EmitsSixNibbles :
    Accepting (half 2 8) ∧ (half 2 8).mode = .half ∧ DefaultTiming (half 2 8).straps := by decide

theorem witness_HalfWidthRequestsFaultInFullMode :
    Accepting (full 4 8) ∧ (full 4 8).mode = .full ∧ (full 4 8).fault.cause = 0 := by decide

theorem witness_ReleaseGivesBackEveryLine : Accepting (full 4 8) ∧ Accepting (half 4 8) := by decide

theorem witness_TransportCounts : DefaultTiming (straps 8 4 8) := by decide

theorem witness_RefreshSendsPackedStream : Accepting (full 4 8) ∧ Accepting (half 4 8) := by decide

theorem witness_RefreshIsSequenceOfDataTransfers : Accepting (half 2 16) ∧ (half 2 16).pk = none := by decide

theorem witness_RefreshEventCountAndRsHigh :
    (Accepting (full 4 8) ∧ DefaultTiming (full 4 8).straps) ∧ Accepting (half 2 16) ∧ DefaultTiming (half 2 16).straps := by
  decide

/-- Both toggles. -/
theorem witness_FlagToggleRetransmitsWholeRegister :
    Accepting (asking (.setFlag .displayControl 4)) ∧
      (asking (.setFlag .displayControl 4)).pending = .pseudo (if true then .setFlag .displayControl 4 else
        .clrFlag .displayControl 4) :: [] ∧
      Accepting (asking (.clrFlag .entryMode 0xFF)) ∧
      (asking (.clrFlag .entryMode 0xFF)).pending = .pseudo (if false then .setFlag .entryMode 0xFF else
        .clrFlag .entryMode 0xFF) :: [] := by decide

theorem witness_BringUpSendsSixCommandsInOrder :
    Accepting (asking .bringup) ∧ (asking .bringup).pending = .pseudo .bringup :: [] ∧
      DefaultTiming (asking .bringup).straps := by decide

theorem witness_BringUpFollowsInitialisation :
    configFailure (straps 8 4 8) = none ∧ configFailure (slowStraps 4) = none := by decide

theorem witness_FinalizeClearsThenDisplayOff :
    Accepting (asking .finalize) ∧ (asking .finalize).pending = .pseudo .finalize :: [] := by decide

/-- The source's own position, and the last column of the line pitch. -/
theorem witness_SetPosSendsCursorAddress :
    Accepting (asking (.setPos 2 1)) ∧ (asking (.setPos 2 1)).pending = .pseudo (.setPos 2 1) :: [] ∧ 2 < 64 ∧
      (asking (.setPos 63 9)).pending = .pseudo (.setPos 63 9) :: [] ∧ 63 < 64 := by decide

/-- One procedure for each of the four cases. -/
theorem witness_SimpleProceduresSendOneByte :
    (Accepting (asking (.cmd 1)) ∧ (asking (.cmd 1)).pending = .pseudo (.cmd 1) :: []) ∧
      (Accepting (asking (.data 0x41)) ∧ (asking (.data 0x41)).pending = .pseudo (.data 0x41) :: []) ∧
      (Accepting (asking (.setCg 300)) ∧ (asking (.setCg 300)).pending = .pseudo (.setCg 300) :: []) ∧
      Accepting (asking (.setDd 0)) ∧ (asking (.setDd 0)).pending = .pseudo (.setDd 0) :: [] := by decide

/-- A state that meets the invariant: after a reset in FULL mode, with a transfer presented. -/
theorem blockInv_full : BlockInv (presenting (full 4 8) [.word 0x500001A5]) where
  idle := by decide
  cells := by decide
  recorded := by decide
  causes := by decide
  configured := by decide
  modeFixed := by decide
  latched := by decide
  strobeLow := by decide
  halfLines := by decide
  initDone := by decide
  pulses := by decide

theorem witness_StepKeepsBlockInv :
    ∃ s t : State, BlockInv s ∧ step s = .next t ∧ t.trace.length = 22 := ⟨_, _, blockInv_full, rfl, rfl⟩

theorem witness_StepKeepsSamplesMatchLog :
    ∃ s t : State, BlockInv s ∧ SamplesMatchLog s ∧ step s = .next t ∧ t.log = [.byte true 0xA5] :=
  ⟨_, _, blockInv_full, rfl, rfl, rfl⟩

theorem witness_StepOnlyExtendsHistory : ∃ t, step (presenting (full 4 8) [.word 0x500001A5]) = .next t := ⟨_, rfl⟩

/-- A recorded fault, a set flag, and a state that is not READY. -/
theorem witness_FaultLifeAndFlagAreSticky :
    (∃ t, step (presenting faulted [.word 0x30000000]) = .next t ∧ faulted.fault.cause ≠ 0) ∧
      (∃ t, step (presenting (half 2 8) [.word 0x00000000]) = .next t ∧ (half 2 8).init4Done = true) ∧
      ∃ t, step (presenting released [.word 0x80000000]) = .next t ∧ released.life ≠ .ready :=
  ⟨⟨_, rfl, by decide⟩, ⟨_, rfl, by decide⟩, ⟨_, rfl, by decide⟩⟩

/-- A request of each kind: one that releases, one that faults, one that stays in READY. -/
theorem witness_WhatLeavesReady :
    Accepting (full 4 8) ∧ (∃ t, exec .release (full 4 8) = .next t ∧ t.life = .released) ∧
      (∃ t, exec .init4 (full 4 8) = .next t ∧ t.life = .fault) ∧
      ∃ t, exec (.xfer true 0) (full 4 8) = .next t ∧ t.life = .ready :=
  ⟨by decide, ⟨_, rfl, rfl⟩, ⟨_, rfl, rfl⟩, ⟨_, rfl, rfl⟩⟩

theorem witness_OnlyPixelWritesChangePixels :
    ∃ t, exec .refresh (withPixels (full 2 8) [(1, 1)]) = .next t ∧ Instr.refresh ≠ .pclr ∧
      ∀ x y v, Instr.refresh ≠ .pset x y v := ⟨_, rfl, nofun, nofun⟩

/-- One request of each of the four kinds. -/
theorem witness_PixelRequestsTouchNoLine :
    (∃ t, exec (.pset 0 0 1) (full 2 8) = .next t) ∧ (∃ t, exec (.pget 0 0) (full 2 8) = .next t) ∧
      (∃ t, exec .pclr (full 2 8) = .next t) ∧ ∃ t, exec .pack (full 2 8) = .next t :=
  ⟨⟨_, rfl⟩, ⟨_, rfl⟩, ⟨_, rfl⟩, ⟨_, rfl⟩⟩

theorem witness_RequestsLeaveShadowRegisters :
    ∃ t, step (asking (.setFlag .entryMode 1)) = .next t ∧
      t.client ≠ (asking (.setFlag .entryMode 1)).client := ⟨_, rfl, by decide⟩

end Sys2Proof.Tests
end

section
/-! PROOFS. The state: what a request can do to it, and what every step keeps (spec/10_state.md). -/

namespace Sys2Proof.Machine

/-! ## What an event list carries over the bus (R130, R131, R220) -/

theorem wellPulsed_concat {es fs : List Event} (he : wellPulsed es = true) (hf : wellPulsed fs = true) :
    wellPulsed (es ++ fs) = true := (wellPulsed_append he).trans hf

/-- The eight levels of a byte, summed again, are the byte (R54, R131). -/
theorem sumBits_byte (b : Byte) :
    sumBits [b[0], b[1], b[2], b[3], b[4], b[5], b[6], b[7]] = b := by
  apply BitVec.eq_of_getLsbD_eq
  intro i hi
  rw [getLsbD_sumBits _ _ hi]
  interval_cases i <;> rfl

/-- The four levels of a nibble, summed again, are the nibble (R54, R131). -/
theorem sumBits_nibble (n : Nibble) :
    sumBits [n[0], n[1], n[2], n[3]] = n.setWidth 8 := by
  apply BitVec.eq_of_getLsbD_eq
  intro i hi
  rw [getLsbD_sumBits _ _ hi, BitVec.getLsbD_setWidth]
  interval_cases i <;> simp

/-- The events `es` carry exactly the logical transfers `xs`, whatever the latches hold before them: their samples are
those of `xs`, every pulse keeps its contract, and they leave the strobe and the lines HALF mode does not own low. -/
structure Carries (m : Mode) (es : List Event) (xs : List LogEntry) : Prop where
  samples : ∀ l, samplesFrom m l es = xs.flatMap (entrySamples m)
  strobeLow : ∀ l : Latches, l.e = false → (l.replay es).e = false
  upperLow : m = .half → ∀ l : Latches, upperLinesLow l = true → upperLinesLow (l.replay es) = true
  pulses : wellPulsed es = true

theorem carries_nil (m : Mode) : Carries m [] [] where
  samples _ := rfl
  strobeLow _ h := h
  upperLow _ _ h := h
  pulses := rfl

theorem carries_append {m : Mode} {es fs : List Event} {xs ys : List LogEntry} (h : Carries m es xs)
    (h' : Carries m fs ys) : Carries m (es ++ fs) (xs ++ ys) where
  samples l := by rw [samplesFrom_append, h.samples, h'.samples, List.flatMap_append]
  strobeLow l hl := by rw [replay_append]; exact h'.strobeLow _ (h.strobeLow l hl)
  upperLow hm l hl := by rw [replay_append]; exact h'.upperLow hm _ (h.upperLow hm l hl)
  pulses := wellPulsed_concat h.pulses h'.pulses

theorem carries_flatMap {m : Mode} {α : Type} {f : α → List Event} {g : α → LogEntry}
    (h : ∀ a, Carries m (f a) [g a]) (as : List α) : Carries m (as.flatMap f) (as.map g) := by
  induction as with
  | nil => exact carries_nil m
  | cons a as ih => exact carries_append (h a) ih

theorem carries_delayOf (m : Mode) (n : Nat) : Carries m (delayOf n) [] where
  samples l := samplesFrom_delayOf m l n
  strobeLow l h := by rwa [replay_delayOf]
  upperLow _ l h := by rwa [replay_delayOf]
  pulses := wellPulsed_delayOf n

/-- Every pulse transfer keeps the strobe contract (R123, R220). -/
theorem wellPulsed_pulseTransfer (c : Straps) (m : Mode) (rs : Level) {k : Nat} (p : BitVec k) :
    wellPulsed (pulseTransfer c m rs p) = true :=
  wellPulsed_concat (wellPulsed_concat (wellPulsed_driveRS rs) (wellPulsed_driveData m p)) (wellPulsed_strobe c)

/-- One pulse on eight lines carries its byte (R123, R124). -/
theorem carries_bytePulse (c : Straps) (rs : Level) (b : Byte) :
    Carries .full (pulseTransfer c .full rs b) [.byte rs b] where
  samples l := by
    simp [pulseTransfer, samplesFrom_append, sampleOf, busPayload, dataLines, Latches.get, sumBits_byte,
      busWidth, entrySamples]
  strobeLow l _ := by simp [pulseTransfer, replay_append]
  upperLow hm := nomatch hm
  pulses := wellPulsed_pulseTransfer c .full rs b

/-- One pulse on four lines carries its nibble (R123, R126). -/
theorem carries_nibblePulse (c : Straps) (rs : Level) (n : Nibble) :
    Carries .half (pulseTransfer c .half rs n) [.nib rs n] where
  samples l := by
    simp [pulseTransfer, samplesFrom_append, sampleOf, busPayload, dataLines, Latches.get, sumBits_nibble,
      busWidth, entrySamples]
  strobeLow l _ := by simp [pulseTransfer, replay_append]
  upperLow _ l hl := by simpa [pulseTransfer, replay_append, upperLinesLow] using hl
  pulses := wellPulsed_pulseTransfer c .half rs n

/-- Two pulses under one RS write, high nibble first, carry a byte on four lines (R125). -/
theorem carries_nibblePair (c : Straps) (rs : Level) (b : Byte) :
    Carries .half (pulseTransfer c .half rs (highNibble b) ++ (driveData .half (lowNibble b) ++ strobe c))
      [.byte rs b] where
  samples l := by
    simp [pulseTransfer, samplesFrom_append, sampleOf, busPayload, dataLines, Latches.get, sumBits_nibble,
      busWidth, entrySamples]
  strobeLow l _ := by simp [pulseTransfer, replay_append]
  upperLow _ l hl := by simpa [pulseTransfer, replay_append, upperLinesLow] using hl
  pulses := wellPulsed_concat (wellPulsed_pulseTransfer c .half rs _)
    (wellPulsed_concat (wellPulsed_driveData .half _) (wellPulsed_strobe c))

/-- `XFER` carries its byte, in either mode (R124, R125). -/
theorem carries_xferEvents (c : Straps) (m : Mode) (rs : Level) (b : Byte) :
    Carries m (xferEvents c m rs b) [.byte rs b] := by
  cases m with
  | full => exact carries_append (carries_bytePulse c rs b) (carries_delayOf .full c.tPost)
  | half =>
    have h := carries_append (carries_nibblePair c rs b) (carries_delayOf .half c.tPost)
    simpa [xferEvents, pulseTransfer] using h

/-- `NIB` carries its nibble (R126). -/
theorem carries_nibEvents {m : Mode} (hm : m = .half) (c : Straps) (rs : Level) (n : Nibble) :
    Carries m (nibEvents c rs n) [.nib rs n] := by
  subst hm
  exact carries_append (carries_nibblePulse c rs n) (carries_delayOf .half c.tPost)

/-- `INIT4` carries its six nibbles (R127). -/
theorem carries_init4Events {m : Mode} (hm : m = .half) (c : Straps) : Carries m (init4Events c) (init4Log c) := by
  subst hm
  exact carries_flatMap (carries_nibblePulse c false) (init4Nibbles c)

/-- Claiming the lines carries nothing (R210 step 4). -/
theorem carries_openEvents (m : Mode) : Carries m (openEvents m) [] where
  samples _ := by cases m <;> rfl
  strobeLow _ _ := by cases m <;> rfl
  upperLow hm _ h := by subst hm; exact h
  pulses := by cases m <;> rfl

/-- Giving the lines back carries nothing (R128). -/
theorem carries_releaseEvents (m : Mode) : Carries m (releaseEvents m) [] where
  samples _ := by cases m <;> rfl
  strobeLow _ h := by cases m <;> exact h
  upperLow hm _ h := by subst hm; exact h
  pulses := by cases m <;> rfl

/-! ## What each request does (R100, R129): one inversion lemma for `exec` -/

/-- The state after an event list and the log entries it carries, the sequencer IDLE again (R130, R133). -/
def sent (s : State) (es : List Event) (xs : List LogEntry) : State := logAll (perform s es) xs

theorem sent_eq (s : State) (es : List Event) (xs : List LogEntry) :
    sent s es xs =
      { s with trace := s.trace ++ es, line := s.line.replay es, log := s.log ++ xs, seqPc := none } := by
  simp [sent, perform_eq, logAll]

@[simp] theorem sent_mode (s : State) (es : List Event) (xs : List LogEntry) : (sent s es xs).mode = s.mode := by
  rw [sent_eq]

@[simp] theorem sent_life (s : State) (es : List Event) (xs : List LogEntry) : (sent s es xs).life = s.life := by
  rw [sent_eq]

@[simp] theorem sent_pb (s : State) (es : List Event) (xs : List LogEntry) : (sent s es xs).pb = s.pb := by
  rw [sent_eq]

@[simp] theorem sent_client (s : State) (es : List Event) (xs : List LogEntry) : (sent s es xs).client = s.client := by
  rw [sent_eq]

/-- The pixel buffer with every cell 0 (R103). -/
def clearedCells (s : State) : Memory := (List.range (cellCount s.straps)).foldl (fun m a => Memory.write m a 0) s.pb

/-- All that a request which answers a next state can have done, one constructor for each outcome of each request. -/
inductive Effect (s : State) : Instr → State → Prop
  /-- Off READY nothing but the response (R191). -/
  | refused (i : Instr) (hl : s.life ≠ .ready) : Effect s i (respond s respRefused)
  | psetOutside (x y : Int) (v : Byte) (hl : s.life = .ready) : Effect s (.pset x y v) (respond s respDone)
  | psetInside (x y : Int) (v : Byte) (hl : s.life = .ready) (hr : inRange s.straps x y = true) :
    Effect s (.pset x y v)
      (respond { s with pb := Memory.write s.pb (cellAddr s.straps x.toNat y.toNat) v } respDone)
  | pget (x y : Int) (r : Response) (hl : s.life = .ready) : Effect s (.pget x y) (respond s r)
  | pclr (hl : s.life = .ready) : Effect s .pclr (respond { s with pb := clearedCells s } respDone)
  | pack (out : List Byte) (hl : s.life = .ready) : Effect s .pack (respond (stopCursor s) (respStream out))
  | xfer (rs : Level) (b : Byte) (hl : s.life = .ready) :
    Effect s (.xfer rs b) (respond (sent s (xferEvents s.straps s.mode rs b) [.byte rs b]) respDone)
  | nib (rs : Level) (n : Nibble) (hl : s.life = .ready) (hm : s.mode = .half) :
    Effect s (.nib rs n) (respond (sent s (nibEvents s.straps rs n) [.nib rs n]) respDone)
  | nibLacked (rs : Level) (n : Nibble) (hl : s.life = .ready) (hm : s.mode = .full) :
    Effect s (.nib rs n) (raise s causeCapability (encode (.nib rs n)))
  | init4 (hl : s.life = .ready) (hm : s.mode = .half) :
    Effect s .init4
      (respond { sent s (init4Events s.straps) (init4Log s.straps) with init4Done := true } respDone)
  | init4Lacked (hl : s.life = .ready) (hm : s.mode = .full) :
    Effect s .init4 (raise s causeCapability (encode .init4))
  | release (hl : s.life = .ready) :
    Effect s .release (respond { sent s (releaseEvents s.mode) [] with life := .released } respDone)
  /-- Each byte of the stream is sent as `XFER 1` sends it (R171). -/
  | refresh (out : List Byte) (hl : s.life = .ready) :
    Effect s .refresh
      (respond (stopCursor (sent s (out.flatMap (xferEvents s.straps s.mode true)) (out.map (.byte true)))) respDone)

theorem cellAddr_lt_of_inRange {c : Straps} {x y : Int} (h : inRange c x y = true) :
    cellAddr c x.toNat y.toNat < cellCount c := by
  obtain ⟨hx, hxw, hy, hyh⟩ := inRange_iff.1 h
  exact cellAddr_lt (by omega) (by omega)

theorem execPset_inRange {s : State} {x y : Int} (hs : Accepting s) (h : inRange s.straps x y = true) (v : Byte) :
    execPset x y v s =
      .next (respond { s with pb := Memory.write s.pb (cellAddr s.straps x.toNat y.toNat) v } respDone) := by
  rw [execPset, accept_ready hs.1 hs.2]
  simp only [h, if_true, writeCell_ok (cellAddr_lt_of_inRange h)]

theorem execPset_outOfRange {s : State} {x y : Int} (hs : Accepting s) (h : ¬ inRange s.straps x y = true) (v : Byte) :
    execPset x y v s = .next (respond s respDone) := by
  rw [execPset, accept_ready hs.1 hs.2, if_neg h]

theorem execPget_accepting {s : State} (hs : Accepting s) (x y : Int) :
    ∃ r, execPget x y s = .next (respond s r) := by
  rw [execPget, accept_ready hs.1 hs.2]
  split
  next h => rw [readCell_ok (cellAddr_lt_of_inRange h)]; exact ⟨_, rfl⟩
  next => exact ⟨_, rfl⟩

theorem execPclr_accepting {s : State} (hs : Accepting s) :
    execPclr s = .next (respond { s with pb := clearedCells s } respDone) := by
  rw [execPclr, accept_ready hs.1 hs.2, fillCells_ok fun a ha => List.mem_range.1 ha]
  rfl

/-- The packer's loop moves the cursor and nothing else (R111). -/
theorem packLoop_frame {n : Nat} {s s' : State} {out : List Byte} (h : packLoop n s = .ok (out, s')) :
    stopCursor s' = stopCursor s := by
  induction n generalizing s out with
  | zero => cases h; rfl
  | succ n ih =>
    unfold packLoop at h
    split at h
    · cases h
    · split at h
      · cases h
      next hrest => cases h; exact (ih hrest : stopCursor s' = stopCursor (advanceCursor s))

/-- All that the refresh loop does: it sends some bytes, one after another, and moves the cursor (R171). -/
theorem refreshLoop_sends {n : Nat} {s s' : State} (h : refreshLoop n s = .ok s') :
    ∃ out : List Byte, stopCursor s' =
      stopCursor (logAll (emitAll s (out.flatMap (xferEvents s.straps s.mode true))) (out.map (.byte true))) := by
  induction n generalizing s with
  | zero => cases h; exact ⟨[], by simp [emitAll_eq, logAll, stopCursor]⟩
  | succ n ih =>
    unfold refreshLoop at h
    split at h
    · cases h
    next p _ =>
      obtain ⟨out, hout⟩ := ih h
      refine ⟨p :: out, hout.trans ?_⟩
      simp [emitAll_eq, transferByte_eq, advanceCursor, logAll, stopCursor, replay_append, Function.comp_def,
        Nat.add_assoc]

theorem effect_pset {s t : State} {x y : Int} {v : Byte} (hs : Accepting s) (h : execPset x y v s = .next t) :
    Effect s (.pset x y v) t := by
  by_cases hr : inRange s.straps x y = true
  · rw [execPset_inRange hs hr] at h; cases h; exact .psetInside x y v hs.2 hr
  · rw [execPset_outOfRange hs hr] at h; cases h; exact .psetOutside x y v hs.2

theorem effect_pget {s t : State} {x y : Int} (hs : Accepting s) (h : execPget x y s = .next t) :
    Effect s (.pget x y) t := by
  obtain ⟨r, hr⟩ := execPget_accepting hs x y
  rw [hr] at h; cases h; exact .pget x y r hs.2

theorem effect_pclr {s t : State} (hs : Accepting s) (h : execPclr s = .next t) : Effect s .pclr t := by
  rw [execPclr_accepting hs] at h; cases h; exact .pclr hs.2

theorem effect_pack {s t : State} (hs : Accepting s) (h : execPack s = .next t) : Effect s .pack t := by
  rw [execPack, accept_ready hs.1 hs.2] at h
  split at h
  next out s' hloop =>
    cases h
    rw [packLoop_frame hloop]
    exact .pack out hs.2
  next => cases h

theorem effect_xfer {s t : State} {rs : Level} {b : Byte} (hs : Accepting s) (h : execXfer rs b s = .next t) :
    Effect s (.xfer rs b) t := by
  rw [execXfer, accept_ready hs.1 hs.2] at h; cases h; exact .xfer rs b hs.2

theorem effect_nib {s t : State} {rs : Level} {n : Nibble} (hs : Accepting s) (h : execNib rs n s = .next t) :
    Effect s (.nib rs n) t := by
  rw [execNib, accept_ready hs.1 hs.2] at h
  split at h
  next hm => cases h; exact .nibLacked rs n hs.2 hm
  next hm => cases h; exact .nib rs n hs.2 hm

theorem effect_init4 {s t : State} (hs : Accepting s) (h : execInit4 s = .next t) : Effect s .init4 t := by
  rw [execInit4, accept_ready hs.1 hs.2] at h
  split at h
  next hm => cases h; exact .init4Lacked hs.2 hm
  next hm => cases h; exact .init4 hs.2 hm

theorem effect_release {s t : State} (hs : Accepting s) (h : execRelease s = .next t) : Effect s .release t := by
  have hsent : sent s (releaseEvents s.mode) [] = perform s (releaseEvents s.mode) := by simp [sent_eq, perform_eq]
  rw [execRelease, accept_ready hs.1 hs.2, ← hsent] at h
  cases h
  exact .release hs.2

theorem effect_refresh {s t : State} (hs : Accepting s) (h : execRefresh s = .next t) : Effect s .refresh t := by
  rw [execRefresh, accept_ready hs.1 hs.2] at h
  split at h
  next s' hloop =>
    cases h
    obtain ⟨out, hout⟩ := refreshLoop_sends hloop
    have hstop : stopCursor (stopSeq s') =
        stopCursor (sent s (out.flatMap (xferEvents s.straps s.mode true)) (out.map (.byte true))) := by
      change stopSeq (stopCursor s') = _
      rw [hout]
      simp [sent_eq, emitAll_eq, logAll, stopCursor, stopSeq, startCursor, startSeq]
    rw [hstop]
    exact .refresh out hs.2
  next => cases h

/-- On an accepting block, what a request that answers a next state has done. -/
theorem effect_of_accepting {s t : State} {i : Instr} (hs : Accepting s) (h : exec i s = .next t) : Effect s i t := by
  cases i with
  | pset x y v => exact effect_pset hs h
  | pget x y => exact effect_pget hs h
  | pclr => exact effect_pclr hs h
  | pack => exact effect_pack hs h
  | xfer rs b => exact effect_xfer hs h
  | nib rs n => exact effect_nib hs h
  | init4 => exact effect_init4 hs h
  | release => exact effect_release hs h
  | refresh => exact effect_refresh hs h

/-- In any state, what a request that answers a next state has done. -/
theorem exec_effect {s t : State} {i : Instr} (h : exec i s = .next t) : Effect s i t := by
  obtain ⟨body, hbody⟩ := exec_accept i
  obtain ⟨hpc, ⟨hl, _⟩ | ⟨hl, rfl⟩⟩ := accept_next ((hbody s).symm.trans h)
  · exact effect_of_accepting ⟨hpc, hl⟩ h
  · exact .refused i hl

/-- All that an illegal word can do (R184, R191). -/
theorem illegalRequest_cases {s t : State} {w : ReqWord} (h : illegalRequest w s = .next t) :
    s.life = .ready ∧ t = raise s causeIllegal w ∨ s.life ≠ .ready ∧ t = respond s respRefused := by
  obtain ⟨_, ⟨hl, hbody⟩ | hrefused⟩ := accept_next h
  · cases hbody; exact .inl ⟨hl, rfl⟩
  · exact .inr hrefused

/-! ## The invariant, one rule for each operation -/

/-- The invariant does not speak of the client, the responses or the host's queue. -/
theorem blockInv_outside {s : State} (h : BlockInv s) (c : ClientRegs) (rs : List Response) (hs : List HostInput) :
    BlockInv { s with client := c, responses := rs, pending := hs } :=
  ⟨h.idle, h.cells, h.recorded, h.causes, h.configured, h.modeFixed, h.latched, h.strobeLow, h.halfLines, h.initDone,
    h.pulses⟩

theorem blockInv_respond {s : State} (h : BlockInv s) (r : Response) : BlockInv (respond s r) :=
  blockInv_outside h s.client (s.responses ++ [r]) s.pending

theorem blockInv_withCells {s : State} (h : BlockInv s) {m : Memory} (hw : Memory.wf m = true)
    (hb : Memory.below (cellCount s.straps) m = true) : BlockInv { s with pb := m } :=
  ⟨h.idle, ⟨hw, hb⟩, h.recorded, h.causes, h.configured, h.modeFixed, h.latched, h.strobeLow, h.halfLines, h.initDone,
    h.pulses⟩

theorem blockInv_stopCursor {s : State} (h : BlockInv s) : BlockInv (stopCursor s) :=
  ⟨⟨h.idle.1, rfl⟩, h.cells, h.recorded, h.causes, h.configured, h.modeFixed, h.latched, h.strobeLow, h.halfLines,
    h.initDone, h.pulses⟩

/-- Events that carry what is logged keep the invariant. -/
theorem blockInv_sent {s : State} (h : BlockInv s) {es : List Event} {xs : List LogEntry} (hc : Carries s.mode es xs) :
    BlockInv (sent s es xs) := by
  rw [sent_eq]
  exact
    { idle := ⟨rfl, h.idle.2⟩
      cells := h.cells
      recorded := h.recorded
      causes := h.causes
      configured := h.configured
      modeFixed := h.modeFixed
      latched := by rw [replay_append, ← h.latched]
      strobeLow := hc.strobeLow _ h.strobeLow
      halfLines := fun hm => hc.upperLow hm _ (h.halfLines hm)
      initDone := h.initDone
      pulses := wellPulsed_concat h.pulses hc.pulses }

theorem blockInv_init4Done {s : State} (h : BlockInv s) (hm : s.mode = .half) : BlockInv { s with init4Done := true } :=
  { h with initDone := ⟨fun hf => (nomatch hm.symm.trans hf), fun _ _ => rfl⟩ }

/-- A READY block that meets the invariant has no fault recorded. -/
theorem cause_of_ready {s : State} (h : BlockInv s) (hl : s.life = .ready) : s.fault.cause = causeNone := by
  by_contra hne
  exact nomatch hl.symm.trans (h.recorded.2 hne)

theorem blockInv_released {s : State} (h : BlockInv s) (hl : s.life = .ready) :
    BlockInv { s with life := .released } :=
  have hcause := cause_of_ready h hl
  ⟨h.idle, h.cells, iff_of_false nofun (not_not_intro hcause), h.causes, h.configured, h.modeFixed, h.latched,
    h.strobeLow, h.halfLines, h.initDone, h.pulses⟩

/-- Fault entry from READY with one of the two causes a request can raise keeps the invariant (R190). -/
theorem blockInv_raise {s : State} (h : BlockInv s) (hl : s.life = .ready) {c : BitVec 3}
    (hc : c = causeCapability ∨ c = causeIllegal) (w : BitVec 32) : BlockInv (raise s c w) := by
  have hcause := cause_of_ready h hl
  have hfault : (raise s c w).fault = { cause := c, info := w } := if_pos hcause
  have hnone : c ≠ causeNone := by rcases hc with rfl | rfl <;> decide
  have hconf : c ≠ causeConfiguration := by rcases hc with rfl | rfl <;> decide
  have hchecks : ¬ configFailure s.straps ≠ none := by rw [← h.configured, hcause]; decide
  exact
    { idle := ⟨rfl, rfl⟩
      cells := h.cells
      recorded := iff_of_true rfl (by rwa [hfault])
      causes := by rw [hfault]; exact .inr (.inr hc)
      configured := by rw [hfault]; exact iff_of_false hconf hchecks
      modeFixed := h.modeFixed
      latched := h.latched
      strobeLow := h.strobeLow
      halfLines := h.halfLines
      initDone := h.initDone
      pulses := h.pulses }

/-- Filling cells below a bound keeps every address below it. -/
theorem below_fill {n : Nat} {m : Memory} (h : Memory.below n m = true) (v : Byte) {as : List Nat}
    (has : ∀ a ∈ as, a < n) : Memory.below n (as.foldl (fun m a => Memory.write m a v) m) = true := by
  induction as generalizing m with
  | nil => exact h
  | cons a as ih =>
    exact ih (below_write (has a List.mem_cons_self) h) fun b hb => has b (List.mem_cons_of_mem a hb)

/-- Every request keeps the invariant. -/
theorem effect_keeps_blockInv {s t : State} {i : Instr} (h : BlockInv s) (e : Effect s i t) : BlockInv t := by
  obtain ⟨hwf, hbelow⟩ := h.cells
  cases e with
  | refused => exact blockInv_respond h _
  | psetOutside => exact blockInv_respond h _
  | psetInside x y v _ hr =>
    exact blockInv_respond
      (blockInv_withCells h (wf_write hwf _ v) (below_write (cellAddr_lt_of_inRange hr) hbelow)) _
  | pget => exact blockInv_respond h _
  | pclr =>
    exact blockInv_respond
      (blockInv_withCells h (wf_fill hwf 0 _) (below_fill hbelow 0 fun a ha => List.mem_range.1 ha)) _
  | pack => exact blockInv_respond (blockInv_stopCursor h) _
  | xfer rs b => exact blockInv_respond (blockInv_sent h (carries_xferEvents _ _ rs b)) _
  | nib rs n _ hm => exact blockInv_respond (blockInv_sent h (carries_nibEvents hm _ rs n)) _
  | nibLacked _ _ hl => exact blockInv_raise h hl (.inl rfl) _
  | init4 _ hm =>
    exact blockInv_respond (blockInv_init4Done (blockInv_sent h (carries_init4Events hm _)) (by simpa using hm)) _
  | init4Lacked hl => exact blockInv_raise h hl (.inl rfl) _
  | release hl =>
    exact blockInv_respond (blockInv_released (blockInv_sent h (carries_releaseEvents _)) (by simpa using hl)) _
  | refresh out =>
    exact blockInv_respond
      (blockInv_stopCursor (blockInv_sent h (carries_flatMap (carries_xferEvents _ _ true) out))) _

theorem illegalRequest_keeps_blockInv {s t : State} {w : ReqWord} (h : BlockInv s)
    (hw : illegalRequest w s = .next t) : BlockInv t := by
  obtain ⟨hl, rfl⟩ | ⟨_, rfl⟩ := illegalRequest_cases hw
  · exact blockInv_raise h hl (.inr rfl) w
  · exact blockInv_respond h _

/-- Settles O53: each operation a step is made of keeps the invariant. -/
theorem stepKeepsBlockInv : Obligations.StepKeepsBlockInv := by
  intro s t h hstep
  have hrest (rest : List HostInput) : BlockInv { s with pending := rest } :=
    blockInv_outside h s.client s.responses rest
  obtain ⟨_, rfl⟩ | ⟨p, rest, _, rfl⟩ | ⟨w, rest, i, _, _, hexec⟩ | ⟨w, rest, why, _, _, hill⟩ := step_cases hstep
  · exact h
  · exact blockInv_outside h _ s.responses _
  · exact effect_keeps_blockInv (hrest rest) (exec_effect hexec)
  · exact illegalRequest_keeps_blockInv (hrest rest) hill

/-! ## History (R22, R29): what a step adds to the trace, the log and the responses -/

/-- `t` has the straps and the mode of `s` and continues its history: the events it adds carry the entries it logs. -/
structure Continues (s t : State) : Prop where
  straps : t.straps = s.straps
  mode : t.mode = s.mode
  wire : ∃ es xs, t.trace = s.trace ++ es ∧ t.log = s.log ++ xs ∧ Carries s.mode es xs
  answers : ∃ rs, t.responses = s.responses ++ rs

/-- Nothing on the wire: trace and log stay. -/
theorem continues_quiet {s t : State} (hs : t.straps = s.straps) (hm : t.mode = s.mode) (ht : t.trace = s.trace)
    (hx : t.log = s.log) (hr : ∃ rs, t.responses = s.responses ++ rs) : Continues s t where
  straps := hs
  mode := hm
  wire := ⟨[], [], by simp [ht], by simp [hx], carries_nil s.mode⟩
  answers := hr

theorem continues_sent {s : State} {es : List Event} {xs : List LogEntry} (hc : Carries s.mode es xs) :
    Continues s (sent s es xs) := by
  rw [sent_eq]
  exact ⟨rfl, rfl, ⟨es, xs, rfl, rfl, hc⟩, ⟨[], (List.append_nil _).symm⟩⟩

theorem continues_trans {s t u : State} (h : Continues s t) (h' : Continues t u) : Continues s u := by
  obtain ⟨es, xs, htrace, hlog, hc⟩ := h.wire
  obtain ⟨es', xs', htrace', hlog', hc'⟩ := h'.wire
  obtain ⟨rs, hrs⟩ := h.answers
  obtain ⟨rs', hrs'⟩ := h'.answers
  rw [h.mode] at hc'
  exact
    { straps := h'.straps.trans h.straps
      mode := h'.mode.trans h.mode
      wire := ⟨es ++ es', xs ++ xs', by simp [htrace', htrace], by simp [hlog', hlog], carries_append hc hc'⟩
      answers := ⟨rs ++ rs', by simp [hrs', hrs]⟩ }

theorem continues_respond {s t : State} (h : Continues s t) (r : Response) : Continues s (respond t r) :=
  continues_trans h (continues_quiet rfl rfl rfl rfl ⟨_, rfl⟩)

/-- Lifecycle, flag and cursor are no history. -/
theorem continues_outside {s t : State} (h : Continues s t) (l : Life) (f : Bool) (k : Option (Nat × Nat)) :
    Continues s { t with life := l, init4Done := f, pk := k } :=
  ⟨h.straps, h.mode, h.wire, h.answers⟩

/-- Every request continues the history. -/
theorem effect_continues {s t : State} {i : Instr} (e : Effect s i t) : Continues s t := by
  cases e with
  | xfer rs b => exact continues_respond (continues_sent (carries_xferEvents _ _ rs b)) _
  | nib rs n _ hm => exact continues_respond (continues_sent (carries_nibEvents hm _ rs n)) _
  | init4 _ hm => exact continues_respond (continues_outside (continues_sent (carries_init4Events hm _)) _ true _) _
  | release =>
    exact continues_respond (continues_outside (continues_sent (carries_releaseEvents _)) .released _ _) _
  | refresh out =>
    exact continues_respond
      (continues_outside (continues_sent (carries_flatMap (carries_xferEvents _ _ true) out)) _ _ none) _
  | _ => exact continues_quiet rfl rfl rfl rfl ⟨_, rfl⟩

theorem illegalRequest_continues {s t : State} {w : ReqWord} (h : illegalRequest w s = .next t) : Continues s t := by
  obtain ⟨_, rfl⟩ | ⟨_, rfl⟩ := illegalRequest_cases h <;> exact continues_quiet rfl rfl rfl rfl ⟨_, rfl⟩

/-- Every step continues the history. -/
theorem step_continues {s t : State} (h : step s = .next t) : Continues s t := by
  have hrest (rest : List HostInput) : Continues s { s with pending := rest } :=
    continues_quiet rfl rfl rfl rfl ⟨[], (List.append_nil _).symm⟩
  obtain ⟨_, rfl⟩ | ⟨p, rest, _, rfl⟩ | ⟨w, rest, i, _, _, hexec⟩ | ⟨w, rest, why, _, _, hill⟩ := step_cases h
  · exact hrest t.pending
  · exact continues_quiet rfl rfl rfl rfl ⟨[], (List.append_nil _).symm⟩
  · exact continues_trans (hrest rest) (effect_continues (exec_effect hexec))
  · exact continues_trans (hrest rest) (illegalRequest_continues hill)

/-- Settles O54: the events a step adds carry exactly the entries it logs. -/
theorem stepKeepsSamplesMatchLog : Obligations.StepKeepsSamplesMatchLog := by
  intro s t _ hmatch hstep
  have hc := step_continues hstep
  obtain ⟨es, xs, htrace, hlog, hcarries⟩ := hc.wire
  unfold SamplesMatchLog samples at hmatch ⊢
  rw [hc.mode, htrace, hlog, samplesFrom_append, hmatch, hcarries.samples, List.flatMap_append]

/-- Settles O55: a step continues the history. -/
theorem stepOnlyExtendsHistory : Obligations.StepOnlyExtendsHistory := by
  intro s t hstep
  have hc := step_continues hstep
  obtain ⟨es, xs, htrace, hlog, _⟩ := hc.wire
  exact ⟨hc.straps, hc.mode, ⟨es, htrace⟩, ⟨xs, hlog⟩, hc.answers⟩

/-! ## What single requests can and cannot change -/

/-- Settles O57: each outcome of each request says which lifecycle state it leads to. -/
theorem whatLeavesReady : Obligations.WhatLeavesReady := by
  intro s t i hs h
  cases exec_effect h with
  | refused _ hl => exact absurd hs.2 hl
  | nib _ _ hl hm => simp [hl, hm]
  | init4 hl hm => simp [hl, hm]
  | nibLacked _ _ _ hm => simp [hm]
  | init4Lacked _ hm => simp [hm]
  | release => simp
  | psetOutside _ _ _ hl => simp [hl]
  | psetInside _ _ _ hl => simp [hl]
  | pget _ _ _ hl => simp [hl]
  | pclr hl => simp [hl]
  | pack _ hl => simp [hl]
  | xfer _ _ hl => simp [hl]
  | refresh _ hl => simp [hl]

/-- Settles O58: of all outcomes only those of `PSET` and `PCLR` write a cell. -/
theorem onlyPixelWritesChangePixels : Obligations.OnlyPixelWritesChangePixels := by
  intro s t i h hpclr hpset
  cases exec_effect h with
  | pclr => exact absurd rfl hpclr
  | psetInside x y v => exact absurd rfl (hpset x y v)
  | psetOutside x y v => exact absurd rfl (hpset x y v)
  | refused => rfl
  | pget => rfl
  | pack => rfl
  | nibLacked => rfl
  | init4Lacked => rfl
  | xfer => simp
  | nib => simp
  | init4 => simp
  | release => simp
  | refresh => simp

/-- No request touches the shadow registers. -/
theorem effect_client {s t : State} {i : Instr} (e : Effect s i t) : t.client = s.client := by
  cases e with
  | xfer => simp
  | nib => simp
  | init4 => simp
  | release => simp
  | refresh => simp
  | _ => rfl

/-- Settles O60: neither a request, nor an illegal word, nor an empty queue touches the shadow registers. -/
theorem requestsLeaveShadowRegisters : Obligations.RequestsLeaveShadowRegisters := by
  intro s t hstep hchanged
  obtain ⟨_, rfl⟩ | ⟨p, rest, hpend, _⟩ | ⟨w, rest, i, _, _, hexec⟩ | ⟨w, rest, why, _, _, hill⟩ := step_cases hstep
  · exact absurd rfl hchanged
  · exact ⟨p, rest, hpend⟩
  · exact absurd (effect_client (exec_effect hexec)) hchanged
  · obtain ⟨_, rfl⟩ | ⟨_, rfl⟩ := illegalRequest_cases hill <;> exact absurd rfl hchanged

theorem inRange_natCast {c : Straps} {x y : Nat} (hx : x < c.width) (hy : y < c.height) : inRange c x y = true :=
  inRange_iff.2 ⟨Int.natCast_nonneg x, Int.ofNat_lt.2 hx, Int.natCast_nonneg y, Int.ofNat_lt.2 hy⟩

/-- Settles O19: the write of the cell, read back by the laws of the memory. -/
theorem psetInRangeWritesItsCell : Obligations.PsetInRangeWritesItsCell := by
  intro s x y v hs hwf hx hy
  exact ⟨_, execPset_inRange hs (inRange_natCast hx hy) v, rfl, read_write_self hwf _ v, fun _ ha =>
    read_write_other ha v⟩

/-! ## The sequencer and the cursor (R27, R28) -/

/-- Settles O13, by the laws of `emitAll` and `perform`. -/
theorem sequencerCountsEmittedEvents : Obligations.SequencerCountsEmittedEvents := by
  intro s es k hk
  rw [emitAll_eq, perform_eq]
  exact ⟨by simp [hk], rfl, rfl, rfl⟩

/-- The cursor's step from the place of byte `k` is the place of byte `k + 1` (R28). -/
theorem nextCursor_divMod {c : Straps} (hw : 0 < c.width) (k : Nat) :
    nextCursor c (k / c.width, k % c.width) = ((k + 1) / c.width, (k + 1) % c.width) := by
  have hk : k % c.width + c.width * (k / c.width) = k := Nat.mod_add_div k c.width
  have hlt : k % c.width < c.width := Nat.mod_lt k hw
  unfold nextCursor
  split
  next hin =>
    obtain ⟨hdiv, hmod⟩ := (Nat.div_mod_unique hw (a := k + 1) (d := k / c.width)).2 ⟨by omega, hin⟩
    rw [hdiv, hmod]
  next hwrap =>
    obtain ⟨hdiv, hmod⟩ := (Nat.div_mod_unique hw (a := k + 1) (d := k / c.width + 1) (c := 0)).2
      ⟨by rw [Nat.mul_succ]; omega, hw⟩
    rw [hdiv, hmod]

/-- Settles O14, by induction on the number of steps. -/
theorem cursorStepsColumnsThenLineGroups : Obligations.CursorStepsColumnsThenLineGroups := by
  intro c k hw
  induction k with
  | zero => simp
  | succ k ih => rw [Function.iterate_succ_apply', ih, nextCursor_divMod hw]

/-! ## Reset (R38 to R40, R210) -/

theorem construct_passed {p : Straps} (h : configFailure p = none) :
    State.construct p =
      { straps := p, life := .ready, fault := noFault, mode := bootMode p, init4Done := bootInit4Done p,
        line := bootLatches p, pb := [], seqPc := none, pk := none, trace := bootTrace p, log := bootLog p,
        client := defaultClient p, responses := [], pending := [] } := by
  simp [State.construct, h]

theorem construct_failed {p : Straps} {k : Nat} (h : configFailure p = some k) :
    State.construct p =
      { straps := p, life := .fault, fault := configFault k, mode := .full, init4Done := false, line := lowLatches,
        pb := [], seqPc := none, pk := none, trace := [], log := [], client := defaultClient p, responses := [],
        pending := [] } := by
  simp [State.construct, h]

theorem bootMode_full {p : Straps} (h : p.dataWidth = 8) : bootMode p = .full := if_pos h

theorem bootMode_half {p : Straps} (h : p.dataWidth = 4) : bootMode p = .half := if_neg (by omega)

/-- The events of reset carry the entries reset logs (R210). -/
theorem carries_boot (p : Straps) : Carries (bootMode p) (bootTrace p) (bootLog p) := by
  unfold bootTrace bootLog
  cases bootMode p with
  | full => exact carries_openEvents .full
  | half => exact carries_append (carries_openEvents .half) (carries_init4Events rfl p)

theorem blockInv_construct_passed {p : Straps} (h : configFailure p = none) : BlockInv (State.construct p) := by
  have hboot := carries_boot p
  rw [construct_passed h]
  exact
    { idle := ⟨rfl, rfl⟩
      cells := ⟨rfl, rfl⟩
      recorded := iff_of_false nofun (not_not_intro rfl)
      causes := .inl rfl
      configured := iff_of_false (show causeNone ≠ causeConfiguration by decide) (not_not_intro h)
      modeFixed := fun _ => rfl
      latched := rfl
      strobeLow := hboot.strobeLow lowLatches rfl
      halfLines := fun hm => hboot.upperLow hm lowLatches rfl
      initDone :=
        ⟨fun (hm : bootMode p = .full) => by simp [bootInit4Done, hm],
          fun _ (hm : bootMode p = .half) => by simp [bootInit4Done, hm]⟩
      pulses := hboot.pulses }

theorem blockInv_construct_failed {p : Straps} {k : Nat} (h : configFailure p = some k) :
    BlockInv (State.construct p) := by
  have hfailed : configFailure p ≠ none := by simp [h]
  rw [construct_failed h]
  exact
    { idle := ⟨rfl, rfl⟩
      cells := ⟨rfl, rfl⟩
      recorded := iff_of_true rfl (show causeConfiguration ≠ causeNone by decide)
      causes := .inr (.inl rfl)
      configured := iff_of_true rfl hfailed
      modeFixed := fun hnone => absurd hnone hfailed
      latched := rfl
      strobeLow := rfl
      halfLines := nofun
      initDone := ⟨fun _ => rfl, nofun⟩
      pulses := rfl }

/-- Settles O52: passed straps by what the events of reset carry, failed straps by the values of R39 and log 5. -/
theorem constructMeetsInvariants : Obligations.ConstructMeetsInvariants := by
  intro p
  cases h : configFailure p with
  | none => exact ⟨blockInv_construct_passed h, by rw [construct_passed h]; exact (carries_boot p).samples lowLatches⟩
  | some k => exact ⟨blockInv_construct_failed h, by rw [construct_failed h]; rfl⟩

/-- Settles O51: the reset straps are one choice of O52. -/
theorem resetMeetsBlockInv : Obligations.ResetMeetsBlockInv := (constructMeetsInvariants Config.resetStraps).1

/-- Settles O16: in FULL mode the trace of reset is the `Open` events alone. -/
theorem fullResetState : Obligations.FullResetState := by
  intro p h hwidth
  have hmode := bootMode_full hwidth
  have htrace : bootTrace p = openEvents .full := by simp [bootTrace, hmode]
  have hline : bootLatches p = lowLatches := by rw [bootLatches, htrace]; rfl
  rw [construct_passed h]
  exact ⟨rfl, rfl, hmode, by simp [bootInit4Done, hmode], hline, fun _ => rfl, rfl, rfl, htrace,
    by simp [bootLog, hmode]⟩

/-- After the initialisation the bus holds its last nibble, RS and the strobe low (R38, R127). -/
theorem replay_init4Events (c : Straps) (l : Latches) :
    l.replay (init4Events c) =
      { l with
        rs := false
        e := false
        d0 := c.fs4Nibble.getLsbD 0
        d1 := c.fs4Nibble.getLsbD 1
        d2 := c.fs4Nibble.getLsbD 2
        d3 := c.fs4Nibble.getLsbD 3 } := by
  simp [init4Events, init4Nibbles, List.replicate, pulseTransfer, replay_append]

/-- A pulse at default timing has no delay but the hold (R126, R132). -/
theorem nibblePulse_defaultTiming {c : Straps} (h : DefaultTiming c) (rs : Level) (n : Nibble) :
    pulseTransfer c .half rs n =
      [.wr .rs rs, .wr .d0 (n.getLsbD 0), .wr .d1 (n.getLsbD 1), .wr .d2 (n.getLsbD 2), .wr .d3 (n.getLsbD 3),
        .wr .e true, .delay 1, .wr .e false] := by
  obtain ⟨hsetup, hel, _⟩ := h
  simp [pulseTransfer, driveRS, driveData_half, strobe, delayOf, hsetup, hel, Config.holdUs]

/-- Settles O17: in HALF mode the initialisation follows the `Open` events. -/
theorem halfResetState : Obligations.HalfResetState := by
  intro p h hwidth htiming
  have hmode := bootMode_half hwidth
  have htrace : bootTrace p = openEvents .half ++ init4Events p := by simp [bootTrace, hmode]
  have hline : bootLatches p = (lowLatches.replay (openEvents .half)).replay (init4Events p) := by
    rw [bootLatches, htrace, replay_append]
  rw [replay_init4Events] at hline
  rw [construct_passed h]
  refine ⟨rfl, rfl, hmode, by simp [bootInit4Done, hmode], by rw [hline], by rw [hline], by rw [hline], by rw [hline],
    by rw [hline], by rw [hline], fun _ => rfl, rfl, rfl, htrace.trans ?_, by simp [bootLog, hmode]; rfl⟩
  simp [init4Events, init4Nibbles, List.replicate, nibblePulse_defaultTiming htiming, openEvents, ownedLines, dataLines]

/-- Settles O18: reset writes the shadow registers alike, whether a check fails or not. -/
theorem shadowRegistersAtReset : Obligations.ShadowRegistersAtReset := by
  intro p
  cases h : configFailure p with
  | none => rw [construct_passed h]; rfl
  | some k => rw [construct_failed h]; rfl

end Sys2Proof.Machine
end

section
/-! PROOFS. Requests as operations of the block: how one is taken from the queue, the pixel cells it reads, the bytes it
sends, and that it answers (spec/20_memory.md). -/

namespace Sys2Proof.Machine

/-! ## Taking the host's next input (R62, R86, R133) -/

/-- A word that decodes to a request is that request's execution, the input taken (R86). -/
theorem step_word {s : State} {w : ReqWord} {rest : List HostInput} {i : Instr} (hp : s.pending = .word w :: rest)
    (hw : decode w = .request i) : step s = exec i { s with pending := rest } := by
  simp [step, takeInput, hp, runInput, runWord, hw]

/-- A client procedure runs, the input taken (R165). -/
theorem step_pseudo {s : State} {p : Pseudo} {rest : List HostInput} (hp : s.pending = .pseudo p :: rest) :
    step s = .next (runPseudo p { s with pending := rest }) := by
  simp [step, takeInput, hp, runInput]

/-- Settles O7: the queue's head is taken, decoded and executed. -/
theorem stepRunsDecodedRequest : Obligations.StepRunsDecodedRequest := fun _ _ _ _ => step_word

/-- A word of the table's one length is read by the decoder as it stands (R78). -/
theorem decode_of_tableWord {w : Nat} {i : Instr} (h : decodeTableWord 32 w = some i) :
    decode (BitVec.ofNat 32 (w % 2 ^ 32)) = .request i := by
  rw [decodeTableWord, if_pos le_rfl] at h
  split at h
  next hdec => cases h; exact hdec
  next => cases h

/-- Settles O8: `withFetchWord` puts its word in front, and the step takes it away again. -/
theorem fetchedWordRunsNext : Obligations.FetchedWordRunsNext := by
  intro s w i h
  exact step_word (s := s.withFetchWord 32 w) rfl (decode_of_tableWord h)

theorem accept_busy {s : State} (hp : s.seqPc ≠ none) (body : State → Host.Outcome State Fault Refusal) :
    accept s body = .refused .requestWhileBusy := by
  obtain ⟨k, hk⟩ := Option.ne_none_iff_exists'.1 hp
  simp [accept, hk]

/-- Settles O11: every request is presented through `accept`. -/
theorem busySequencerRefusesRequests : Obligations.BusySequencerRefusesRequests := by
  intro s i hp
  obtain ⟨body, hbody⟩ := exec_accept i
  rw [hbody, accept_busy hp]

/-! ## One cell, written and read back (R101, R102) -/

theorem execPget_inRange {s : State} {x y : Int} (hs : Accepting s) (h : inRange s.straps x y = true) :
    execPget x y s =
      .next (respond s (respValue (Memory.read s.pb (cellAddr s.straps x.toNat y.toNat)))) := by
  rw [execPget, accept_ready hs.1 hs.2]
  simp only [h, if_true, readCell_ok (cellAddr_lt_of_inRange h)]

/-- `(DONE, valid=1, value=v)` as a number (R87). -/
theorem respValue_word (v : Byte) : (respValue v).word = 0x0100 ||| v.setWidth 16 := by
  simp [respValue, respWord, statusDone, causeNone]

/-- Settles O20: the cell of a pair in range is read as stored. -/
theorem pgetInRangeAnswersItsCell : Obligations.PgetInRangeAnswersItsCell := by
  intro s x y hs hx hy
  have hget := execPget_inRange hs (inRange_natCast hx hy)
  rw [← respValue_word]
  exact hget

/-- Settles O23: `PSET` changes one cell (O19), `PGET` reads one cell (O20), and pairs in range that share a cell are
equal (R51). -/
theorem setThenGet : Obligations.SetThenGet := by
  intro s x y x' y' v hs hwf hx hy hx' hy'
  obtain ⟨t, hset, ht, hcell, hothers⟩ := psetInRangeWritesItsCell s x y v hs hwf hx hy
  have hstraps : t.straps = s.straps := by rw [ht]
  have hresp : t.responses = s.responses ++ [{ stream := [], word := 0x0000 }] := by rw [ht]
  have haccepting : Accepting t := by rw [ht]; exact hs
  have hread : Memory.read t.pb (y' * s.straps.width + x') =
      if x' = x ∧ y' = y then v else Memory.read s.pb (y' * s.straps.width + x') := by
    split
    next heq => obtain ⟨rfl, rfl⟩ := heq; exact hcell
    next hne => exact hothers _ fun haddr => hne (cellAddr_inj hx' hx haddr)
  refine ⟨t, _, hset, pgetInRangeAnswersItsCell t x' y' haccepting (hstraps ▸ hx') (hstraps ▸ hy'), ?_⟩
  rw [hresp, hstraps, hread, List.append_assoc]
  rfl

/-! ## The packed bytes in order: the packer's loops stay inside the buffer (R58, R111) -/

/-- Byte `k` of the packed stream: column `k mod W` of line-group `k div W` (R111). -/
def packedByteAt (c : Straps) (m : Memory) (k : Nat) : Byte :=
  packBits ((packAddrs c (k % c.width) (k / c.width * 8)).map (Memory.read m))

/-- The `n` bytes of the packed stream from byte `k` on. -/
def packedBytes (c : Straps) (m : Memory) (k n : Nat) : List Byte := (List.range' k n).map (packedByteAt c m)

/-- The packed stream of a buffer (R111). -/
def packedStream (c : Straps) (m : Memory) : List Byte := packedBytes c m 0 (packedCount c)

theorem packedBytes_succ (c : Straps) (m : Memory) (k n : Nat) :
    packedBytes c m k (n + 1) = packedByteAt c m k :: packedBytes c m (k + 1) n := rfl

/-- The cursor stands at byte `k` of the stream (R28, R111). -/
def AtByte (s : State) (k : Nat) : Prop := cursor s = (k / s.straps.width, k % s.straps.width)

theorem atByte_start (s : State) : AtByte (startCursor s) 0 := by simp [AtByte, cursor, startCursor]

/-- A stream with a byte in it has a column. -/
theorem width_pos_of_lt_packedCount {c : Straps} {k : Nat} (hk : k < packedCount c) : 0 < c.width :=
  Nat.pos_of_mul_pos_right (Nat.zero_lt_of_lt hk)

theorem atByte_advance {s : State} {k : Nat} (hk : k < packedCount s.straps) (h : AtByte s k) :
    AtByte (advanceCursor s) (k + 1) := by
  have hstep : cursor (advanceCursor s) = nextCursor s.straps (cursor s) := rfl
  rw [AtByte, hstep, h, nextCursor_divMod (width_pos_of_lt_packedCount hk), advanceCursor_straps]

/-- At each byte of the stream the eight cells the packer reads lie in the buffer (R58, R110). -/
theorem packAtCursor_ok {s : State} {k : Nat} (hk : k < packedCount s.straps) (h : AtByte s k) :
    packAtCursor s = .ok (packedByteAt s.straps s.pb k) := by
  have hcol : k % s.straps.width < s.straps.width := Nat.mod_lt k (width_pos_of_lt_packedCount hk)
  have hgroup : k / s.straps.width < lineGroups s.straps := Nat.div_lt_of_lt_mul hk
  rw [packAtCursor, h, packByte_ok hcol (lineGroup_lt hgroup)]
  rfl

/-- The packer's loop answers the bytes from the cursor on (R111). -/
theorem packLoop_ok {n k : Nat} {s : State} (hn : k + n ≤ packedCount s.straps) (h : AtByte s k) :
    ∃ s', packLoop n s = .ok (packedBytes s.straps s.pb k n, s') := by
  induction n generalizing s k with
  | zero => exact ⟨s, rfl⟩
  | succ n ih =>
    have hk : k < packedCount s.straps := by omega
    obtain ⟨s', hrest⟩ := ih (by simp; omega) (atByte_advance hk h)
    refine ⟨s', ?_⟩
    simp only [packLoop, packAtCursor_ok hk h, hrest, packedBytes_succ, advanceCursor_straps, advanceCursor_pb]

/-- `PACK` answers the packed stream and leaves the cursor IDLE (R111). -/
theorem execPack_accepting {s : State} (hs : Accepting s) :
    execPack s = .next (respond (stopCursor s) (respStream (packedStream s.straps s.pb))) := by
  obtain ⟨s', hloop⟩ : ∃ s', packLoop (packedCount s.straps) (startCursor s) =
      .ok (packedStream s.straps s.pb, s') :=
    packLoop_ok (Nat.zero_add _).le (atByte_start s)
  have hstop : stopCursor s' = stopCursor s := (packLoop_frame hloop).trans rfl
  rw [execPack, accept_ready hs.1 hs.2]
  simp only [hloop, hstop]

/-- The refresh loop sends the bytes from the cursor on, one after another (R171). -/
theorem refreshLoop_ok {n k : Nat} {s : State} (hn : k + n ≤ packedCount s.straps) (h : AtByte s k) :
    ∃ s', refreshLoop n s = .ok s' ∧ stopCursor s' =
      stopCursor (logAll (emitAll s ((packedBytes s.straps s.pb k n).flatMap (xferEvents s.straps s.mode true)))
        ((packedBytes s.straps s.pb k n).map (.byte true))) := by
  induction n generalizing s k with
  | zero => exact ⟨s, rfl, by simp [packedBytes, emitAll_eq, logAll, stopCursor]⟩
  | succ n ih =>
    have hk : k < packedCount s.straps := by omega
    have hsent : AtByte (transferByte s true (packedByteAt s.straps s.pb k)) k := by rw [transferByte_eq]; exact h
    have hnext : AtByte (advanceCursor (transferByte s true (packedByteAt s.straps s.pb k))) (k + 1) :=
      atByte_advance (by simpa [transferByte_eq] using hk) hsent
    obtain ⟨s', hrest, hstop⟩ := ih (by simp [transferByte_eq]; omega) hnext
    refine ⟨s', by simp only [refreshLoop, packAtCursor_ok hk h, hrest], hstop.trans ?_⟩
    simp [packedBytes_succ, emitAll_eq, transferByte_eq, advanceCursor, logAll, stopCursor, replay_append]

/-- `REFRESH` sends the packed stream as data bytes and leaves the sequencer and the cursor IDLE (R171). -/
theorem execRefresh_accepting {s : State} (hs : Accepting s) :
    execRefresh s = .next
      (respond
        (stopCursor (sent s ((packedStream s.straps s.pb).flatMap (xferEvents s.straps s.mode true))
          ((packedStream s.straps s.pb).map (.byte true))))
        respDone) := by
  obtain ⟨s', hloop, hout⟩ := refreshLoop_ok (s := startCursor (startSeq s)) (Nat.zero_add _).le
    (atByte_start (startSeq s))
  simp only [startCursor_straps, startSeq_straps] at hloop
  have hstop : stopCursor (stopSeq s') = stopSeq (stopCursor s') := rfl
  rw [execRefresh, accept_ready hs.1 hs.2]
  simp only [hloop, hstop, hout]
  simp [sent_eq, emitAll_eq, logAll, stopCursor, stopSeq, startCursor, startSeq, packedStream]

/-! ## The bus requests on an accepting block (R124 to R128, R183) -/

/-- `XFER` sends its events and logs its byte (R124, R125). -/
theorem execXfer_accepting {s : State} (hs : Accepting s) (rs : Level) (b : Byte) :
    execXfer rs b s = .next (respond (sent s (xferEvents s.straps s.mode rs b) [.byte rs b]) respDone) := by
  rw [execXfer, accept_ready hs.1 hs.2]
  rfl

theorem execNib_half {s : State} (hs : Accepting s) (hm : s.mode = .half) (rs : Level) (n : Nibble) :
    execNib rs n s = .next (respond (sent s (nibEvents s.straps rs n) [.nib rs n]) respDone) := by
  rw [execNib, accept_ready hs.1 hs.2]
  simp only [hm]
  rfl

theorem execNib_full {s : State} (hs : Accepting s) (hm : s.mode = .full) (rs : Level) (n : Nibble) :
    execNib rs n s = .next (raise s causeCapability (encode (.nib rs n))) := by
  rw [execNib, accept_ready hs.1 hs.2]
  simp only [hm]
  rfl

theorem execInit4_half {s : State} (hs : Accepting s) (hm : s.mode = .half) :
    execInit4 s = .next
      (respond { sent s (init4Events s.straps) (init4Log s.straps) with init4Done := true } respDone) := by
  rw [execInit4, accept_ready hs.1 hs.2]
  simp only [hm]
  rfl

theorem execInit4_full {s : State} (hs : Accepting s) (hm : s.mode = .full) :
    execInit4 s = .next (raise s causeCapability (encode .init4)) := by
  rw [execInit4, accept_ready hs.1 hs.2]
  simp only [hm]
  rfl

theorem execRelease_accepting {s : State} (hs : Accepting s) :
    execRelease s = .next (respond { perform s (releaseEvents s.mode) with life := .released } respDone) := by
  rw [execRelease, accept_ready hs.1 hs.2]

/-! ## Every request answers (R133, R185) -/

theorem exec_answers_of_accepting {s : State} (hs : Accepting s) (i : Instr) : ∃ t, exec i s = .next t := by
  cases i with
  | pset x y v =>
    by_cases hr : inRange s.straps x y = true
    · exact ⟨_, execPset_inRange hs hr v⟩
    · exact ⟨_, execPset_outOfRange hs hr v⟩
  | pget x y =>
    obtain ⟨r, hr⟩ := execPget_accepting hs x y
    exact ⟨_, hr⟩
  | pclr => exact ⟨_, execPclr_accepting hs⟩
  | pack => exact ⟨_, execPack_accepting hs⟩
  | xfer rs b => exact ⟨_, execXfer_accepting hs rs b⟩
  | nib rs n =>
    cases hm : s.mode with
    | full => exact ⟨_, execNib_full hs hm rs n⟩
    | half => exact ⟨_, execNib_half hs hm rs n⟩
  | init4 =>
    cases hm : s.mode with
    | full => exact ⟨_, execInit4_full hs hm⟩
    | half => exact ⟨_, execInit4_half hs hm⟩
  | release => exact ⟨_, execRelease_accepting hs⟩
  | refresh => exact ⟨_, execRefresh_accepting hs⟩

/-- Settles O12: in READY each request has its answer, off READY each is refused. -/
theorem everyRequestAnswersOnIdleBlock : Obligations.EveryRequestAnswersOnIdleBlock := by
  intro s i hp
  by_cases hl : s.life = .ready
  · exact exec_answers_of_accepting ⟨hp, hl⟩ i
  · exact ⟨_, exec_refused hp hl i⟩

/-! ## One byte on the bus (R57, R131, R132) -/

/-- Whatever the latches held, a transfer leaves RS at its level and the strobe low (R124, R125). -/
theorem replay_xferEvents_rs_e (c : Straps) (m : Mode) (rs : Level) (b : Byte) (l : Latches) :
    (l.replay (xferEvents c m rs b)).rs = rs ∧ (l.replay (xferEvents c m rs b)).e = false := by
  cases m <;> simp [xferEvents, pulseTransfer, replay_append]

/-- The high nibble on the four lines is `b >> 4` (R55, R76). -/
theorem setWidth_highNibble (b : Byte) : (highNibble b).setWidth 8 = b >>> 4 := by
  apply BitVec.eq_of_toNat_eq
  have := b.isLt
  simp [highNibble, Nat.shiftRight_eq_div_pow]
  omega

/-- The low nibble on the four lines is `b & 0xF` (R55, R76). -/
theorem setWidth_lowNibble (b : Byte) : (lowNibble b).setWidth 8 = b &&& 0xF := by
  apply BitVec.eq_of_getLsbD_eq
  intro i hi
  interval_cases i <;> simp [lowNibble]

/-- Settles O32: the events of `XFER` carry its byte, whatever the delays. -/
theorem xferSamplesItsByte : Obligations.XferSamplesItsByte := by
  intro s rs b hs
  have hcarries := carries_xferEvents s.straps s.mode rs b
  obtain ⟨hrs, he⟩ := replay_xferEvents_rs_e s.straps s.mode rs b s.line
  refine ⟨_, xferEvents s.straps s.mode rs b, execXfer_accepting hs rs b, ?_, ?_, ?_, hcarries.pulses, ?_⟩
  · rw [sent_eq, ← hs.1]; rfl
  · rw [sent_eq]; exact hrs
  · rw [sent_eq]; exact he
  · rw [hcarries.samples, List.flatMap_singleton]
    cases s.mode with
    | full => rfl
    | half => simp only [entrySamples, setWidth_highNibble, setWidth_lowNibble]

/-! ## The words of `XFER`, and the cursor's address (R77, R79, R151) -/

theorem zeroFieldT_encodeT (op : BitVec 4) (rs : Level) (b : Byte) : zeroFieldT (encodeT op rs b) = 0 := by
  apply BitVec.eq_of_getLsbD_eq
  intro i hi
  interval_cases i <;> simp [zeroFieldT, encodeT, placeField]

theorem rsField_encodeT (op : BitVec 4) (rs : Level) (b : Byte) : rsField (encodeT op rs b) = rs := by
  simp [rsField, encodeT, placeField]

theorem byteField_encodeT (op : BitVec 4) (rs : Level) (b : Byte) : byteField (encodeT op rs b) = b := by
  apply BitVec.eq_of_getLsbD_eq
  intro i hi
  interval_cases i <;> simp [byteField, encodeT, placeField]

/-- The word of `XFER` is read back with its operands (R79, R86). -/
theorem decode_encode_xfer (rs : Level) (b : Byte) : decode (encode (.xfer rs b)) = .request (.xfer rs b) := by
  have hop : opField (encode (.xfer rs b)) = 5 := Laws.EncodeHoldsOpcode.xfer rs b
  have hzero : zeroFieldT (encode (.xfer rs b)) = 0 := zeroFieldT_encodeT _ rs b
  have hrs : rsField (encode (.xfer rs b)) = rs := rsField_encodeT _ rs b
  have hbyte : byteField (encode (.xfer rs b)) = b := byteField_encodeT _ rs b
  simp [decode, hop, hzero, hrs, hbyte, whenZero]

/-- `& 0xFF` is what a byte keeps of a natural anyway (R16 (i), R143). -/
theorem byteOf_eq (n : Nat) : byteOf n = BitVec.ofNat 8 n := by
  apply BitVec.eq_of_toNat_eq
  simp [byteOf, Nat.and_two_pow_sub_one_eq_mod n 8]

/-- An address byte is the opcode ORed with the address's low eight bits (R77). -/
theorem addressByte_eq (opc : Byte) (a : Nat) : addressByte opc a = opc ||| BitVec.ofNat 8 a := by
  rw [addressByte, byteOf_eq, BitVec.ofNat_or, BitVec.ofNat_toNat, BitVec.setWidth_eq]

/-- For a column below the line pitch the address is row × 64 + col (R77, R151). -/
theorem cursorAddr_eq {col row : Nat} (h : col < 64) : cursorAddr col row = row * 64 + col := by
  rw [cursorAddr, ← Nat.shiftLeft_add_eq_or_of_lt (i := 6) h, Nat.shiftLeft_eq]

theorem stepMany_succ {s t : State} (h : step s = .next t) (n : Nat) : stepMany (n + 1) s = stepMany n t := by
  simp [stepMany, h]

/-- The step that takes an `XFER` word from the queue sends its byte (R62, R124, R125). -/
theorem step_xferWord {s : State} {rest : List HostInput} {rs : Level} {b : Byte} (hs : Accepting s)
    (hp : s.pending = .word (encode (.xfer rs b)) :: rest) :
    ∃ u, step s = .next u ∧ u.pending = rest ∧ u.client = s.client ∧ u.log = s.log ++ [.byte rs b] := by
  have hidle : Accepting { s with pending := rest } := hs
  refine ⟨_, (step_word hp (decode_encode_xfer rs b)).trans (execXfer_accepting hidle rs b), ?_⟩
  rw [sent_eq]
  exact ⟨rfl, rfl, rfl⟩

/-- The two steps of a procedure that issues one byte and keeps the shadow registers (R165). -/
theorem stepMany_oneByte {s : State} {rest : List HostInput} {p : Pseudo} {rs : Level} {b : Byte} (hs : Accepting s)
    (hp : s.pending = .pseudo p :: rest) (hclient : clientAfter s.straps s.client p = s.client)
    (hexp : expansion s.client p = [.xfer rs b]) :
    ∃ u, stepMany 2 s = .next u ∧ u.pending = rest ∧ u.client = s.client ∧ u.log = s.log ++ [.byte rs b] := by
  have hqueue : (runPseudo p { s with pending := rest }).pending = .word (encode (.xfer rs b)) :: rest := by
    simp [hclient, hexp]
  obtain ⟨u, hsend, hpending, hkept, hlog⟩ := step_xferWord (s := runPseudo p { s with pending := rest }) hs hqueue
  exact ⟨u, by rw [stepMany_succ (step_pseudo hp), stepMany_succ hsend]; rfl, hpending, hkept.trans hclient, hlog⟩

/-- Settles O49: `SETPOS` issues one address command. -/
theorem setPosSendsCursorAddress : Obligations.SetPosSendsCursorAddress := by
  intro s rest col row hs hp hcol
  obtain ⟨u, hsteps, hpending, hclient, hlog⟩ := stepMany_oneByte hs hp rfl rfl
  rw [addressByte_eq, cursorAddr_eq hcol] at hlog
  refine ⟨u, hsteps, hpending, hclient, hlog, ?_⟩
  rintro rfl rfl
  exact hlog

end Sys2Proof.Machine
end

section
/-! PROOFS. The request word and the response word: the fields of a word, the round trip between words and requests, and
the requests that other requests and procedures stand for (spec/30_encoding.md). -/

namespace Sys2Proof

/-! ## The formats as fields side by side (R79, R80, R81) -/

theorem encodeP_eq_append (op : BitVec 4) (x y : Int) (v : Byte) :
    encodeP op x y v = op ++ BitVec.ofInt 10 x ++ BitVec.ofInt 10 y ++ v := by
  ext i hi
  grind [encodeP, placeField]

theorem encodeT_eq_append (op : BitVec 4) (rs : Level) (b : Byte) :
    encodeT op rs b = op ++ 0#19 ++ BitVec.ofBool rs ++ b := by
  ext i hi
  grind [encodeT, placeField]

theorem encodeZ_eq_append (op : BitVec 4) : encodeZ op = op ++ 0#28 := by
  ext i hi
  grind [encodeZ, placeField]

/-- The byte of `NIB` is four zeros and the nibble (R79). -/
theorem encodeT_nibble_eq_append (op : BitVec 4) (rs : Level) (n : Nibble) :
    encodeT op rs (n.setWidth 8) = op ++ 0#19 ++ BitVec.ofBool rs ++ 0#4 ++ n := by
  ext i hi
  grind [encodeT, placeField]

/-- Settles O5: each request's word is one of the three formats, or format T with a nibble. -/
theorem requestWordsFollowTheirFormats : Obligations.RequestWordsFollowTheirFormats :=
  ⟨fun x y v => encodeP_eq_append 1 x y v, fun x y => encodeP_eq_append 2 x y 0,
    fun rs b => encodeT_eq_append 5 rs b, fun rs n => encodeT_nibble_eq_append 6 rs n,
    encodeZ_eq_append 3, encodeZ_eq_append 4, encodeZ_eq_append 7, encodeZ_eq_append 8, encodeZ_eq_append 9⟩

/-! ## The fields of an encoded word (R79 to R82) -/

@[simp] theorem xField_encodeP (op : BitVec 4) (x y : Int) (v : Byte) :
    xField (encodeP op x y v) = BitVec.ofInt 10 x := by
  rw [encodeP_eq_append, xField, BitVec.extractLsb'_append_eq_of_le (by decide),
    BitVec.extractLsb'_append_eq_of_le (by decide)]
  exact BitVec.extractLsb'_append_eq_right

@[simp] theorem yField_encodeP (op : BitVec 4) (x y : Int) (v : Byte) :
    yField (encodeP op x y v) = BitVec.ofInt 10 y := by
  rw [encodeP_eq_append, yField, BitVec.extractLsb'_append_eq_of_le (by decide)]
  exact BitVec.extractLsb'_append_eq_right

@[simp] theorem byteField_encodeP (op : BitVec 4) (x y : Int) (v : Byte) : byteField (encodeP op x y v) = v := by
  rw [encodeP_eq_append, byteField]
  exact BitVec.extractLsb'_append_eq_right

@[simp] theorem zeroFieldN_encodeT_nibble (op : BitVec 4) (rs : Level) (n : Nibble) :
    zeroFieldN (encodeT op rs (n.setWidth 8)) = 0 := by
  ext i hi
  grind [zeroFieldN, encodeT, placeField]

@[simp] theorem nibbleField_encodeT_nibble (op : BitVec 4) (rs : Level) (n : Nibble) :
    nibbleField (encodeT op rs (n.setWidth 8)) = n := by
  ext i hi
  grind [nibbleField, encodeT, placeField]

@[simp] theorem zeroFieldZ_encodeZ (op : BitVec 4) : zeroFieldZ (encodeZ op) = 0 := by
  ext i hi
  grind [zeroFieldZ, encodeZ, placeField]

theorem coordFits_iff {c : Int} : CoordFits c = true ↔ -512 ≤ c ∧ c ≤ 511 := by
  simp [CoordFits]

/-- A coordinate that fits its field is read back by sign extension (R82). -/
theorem sext10_ofInt {c : Int} (h : CoordFits c = true) : sext10 (BitVec.ofInt 10 c) = c := by
  obtain ⟨hlo, hhi⟩ := coordFits_iff.1 h
  exact BitVec.toInt_ofInt_eq_self (by decide) hlo (Int.lt_add_one_of_le hhi)

theorem coordFits_sext10 (f : BitVec 10) : CoordFits (sext10 f) = true :=
  coordFits_iff.2 ⟨BitVec.le_toInt f, Int.le_of_lt_add_one BitVec.toInt_lt⟩

/-! ## From a request to its word and back (R86) -/

/-- Settles O1: the opcode selects the request's own row, and each field of that row reads back what was put there. -/
theorem decodeReadsBackEncode : Obligations.DecodeReadsBackEncode := by
  intro i hwf
  cases i with
  | pset x y v =>
    obtain ⟨hx, hy⟩ : CoordFits x = true ∧ CoordFits y = true := by simpa [WellFormed] using hwf
    simp [decode, encode, opcode, opField_encodeP, sext10_ofInt hx, sext10_ofInt hy]
  | pget x y =>
    obtain ⟨hx, hy⟩ : CoordFits x = true ∧ CoordFits y = true := by simpa [WellFormed] using hwf
    simp [decode, encode, opcode, opField_encodeP, whenZero, sext10_ofInt hx, sext10_ofInt hy]
  | xfer rs b => exact Machine.decode_encode_xfer rs b
  | nib rs n =>
    simp [decode, encode, opcode, opField_encodeT, whenZero, Machine.zeroFieldT_encodeT, Machine.rsField_encodeT]
  | pclr => simp [decode, encode, opcode, opField_encodeZ, whenZero]
  | pack => simp [decode, encode, opcode, opField_encodeZ, whenZero]
  | init4 => simp [decode, encode, opcode, opField_encodeZ, whenZero]
  | release => simp [decode, encode, opcode, opField_encodeZ, whenZero]
  | refresh => simp [decode, encode, opcode, opField_encodeZ, whenZero]

theorem decode_of_encode_eq {i : Instr} {w : ReqWord} (hwf : WellFormed i = true) (h : encode i = w) :
    decode w = .request i :=
  h ▸ decodeReadsBackEncode i hwf

/-- Settles O4: each word is the encoding of its request (O1). -/
theorem specWordsDecode : Obligations.SpecWordsDecode :=
  ⟨decode_of_encode_eq rfl rfl, decode_of_encode_eq rfl rfl, decode_of_encode_eq rfl rfl, decode_of_encode_eq rfl rfl,
    decode_of_encode_eq rfl rfl, decode_of_encode_eq rfl rfl, decode_of_encode_eq rfl rfl, decode_of_encode_eq rfl rfl,
    decode_of_encode_eq rfl rfl, decode_of_encode_eq rfl rfl, decode_of_encode_eq rfl rfl⟩

/-! ## From a word to its request and back (R84, R86) -/

theorem opField_eq_of_toNat {w : ReqWord} {k : Nat} (h : (opField w).toNat = k) : opField w = BitVec.ofNat 4 k := by
  rw [← h, BitVec.ofNat_toNat, BitVec.setWidth_eq]

/-- A word is its fields of format P, put together again (R80). -/
theorem encodeP_fields {w : ReqWord} {op : BitVec 4} {v : Byte} (hop : opField w = op) (hv : byteField w = v) :
    encodeP op (sext10 (xField w)) (sext10 (yField w)) v = w := by
  simp only [encodeP_eq_append, sext10, BitVec.ofInt_toInt, ← hop, ← hv]
  ext i hi
  grind [opField, xField, yField, byteField]

/-- A word whose bits 27:9 are zero is its fields of format T, put together again (R79). -/
theorem encodeT_fields {w : ReqWord} {op : BitVec 4} {b : Byte} (hop : opField w = op) (hzero : zeroFieldT w = 0#19)
    (hb : byteField w = b) : encodeT op (rsField w) b = w := by
  rw [encodeT_eq_append, ← hop, ← hzero, ← hb]
  ext i hi
  grind [opField, zeroFieldT, rsField, byteField]

/-- A word whose bits 27:0 are zero is its opcode and nothing else (R81). -/
theorem encodeZ_fields {w : ReqWord} {op : BitVec 4} (hop : opField w = op) (hzero : zeroFieldZ w = 0#28) :
    encodeZ op = w := by
  rw [encodeZ_eq_append, ← hop, ← hzero]
  ext i hi
  grind [opField, zeroFieldZ]

/-- A byte whose bits 7:4 are zero is its nibble (R79). -/
theorem byteField_eq_nibble {w : ReqWord} (hzero : zeroFieldN w = 0#4) :
    byteField w = (nibbleField w).setWidth 8 := by
  have hparts : byteField w = zeroFieldN w ++ nibbleField w := by
    ext i hi
    grind [zeroFieldN, nibbleField, byteField]
  rw [hparts, hzero]
  ext i hi
  grind

theorem whenZero_request {z : Bool} {i j : Instr} (h : whenZero z i = .request j) : z = true ∧ i = j := by
  unfold whenZero at h
  split at h
  · cases h; exact ⟨‹_›, rfl⟩
  · cases h

/-- A row of format Z: the opcode and the zero test leave one word for its request (R81). -/
theorem encode_of_rowZ {w : ReqWord} {i j : Instr} (h : whenZero (zeroFieldZ w == 0) i = .request j)
    (hop : opField w = opcode i) (hwf : WellFormed i = true) (henc : encode i = encodeZ (opcode i)) :
    WellFormed j = true ∧ encode j = w := by
  obtain ⟨hzero, rfl⟩ := whenZero_request h
  exact ⟨hwf, henc.trans (encodeZ_fields hop (eq_of_beq hzero))⟩

/-- Settles O2: row by row, the fields the decoder reads and those it checks to be zero make up the whole word. -/
theorem encodeReadsBackDecode : Obligations.EncodeReadsBackDecode := by
  intro w i h
  unfold decode at h
  split at h
  next hop => -- PSET
    cases h
    exact ⟨by simp [WellFormed, coordFits_sext10], encodeP_fields (opField_eq_of_toNat hop) rfl⟩
  next hop => -- PGET
    obtain ⟨hbyte, rfl⟩ := whenZero_request h
    exact ⟨by simp [WellFormed, coordFits_sext10], encodeP_fields (opField_eq_of_toNat hop) (eq_of_beq hbyte)⟩
  next hop => -- PCLR
    exact encode_of_rowZ h (opField_eq_of_toNat hop) rfl rfl
  next hop => -- PACK
    exact encode_of_rowZ h (opField_eq_of_toNat hop) rfl rfl
  next hop => -- XFER
    obtain ⟨hzero, rfl⟩ := whenZero_request h
    exact ⟨rfl, encodeT_fields (opField_eq_of_toNat hop) (eq_of_beq hzero) rfl⟩
  next hop => -- NIB
    obtain ⟨hzero, rfl⟩ := whenZero_request h
    obtain ⟨hzeroT, hzeroN⟩ : zeroFieldT w = 0#19 ∧ zeroFieldN w = 0#4 := by simpa using hzero
    exact ⟨rfl, encodeT_fields (opField_eq_of_toNat hop) hzeroT (byteField_eq_nibble hzeroN)⟩
  next hop => -- INIT4
    exact encode_of_rowZ h (opField_eq_of_toNat hop) rfl rfl
  next hop => -- RELEASE
    exact encode_of_rowZ h (opField_eq_of_toNat hop) rfl rfl
  next hop => -- REFRESH
    exact encode_of_rowZ h (opField_eq_of_toNat hop) rfl rfl
  next => -- a reserved opcode
    cases h

/-! ## The illegal words (R84) -/

theorem toNat_opField (w : ReqWord) : (opField w).toNat = Machine.opNumber w := by
  have := w.isLt
  rw [opField, BitVec.extractLsb'_toNat, Nat.shiftRight_eq_div_pow, Machine.opNumber]
  omega

theorem byteField_eq_zero_iff (w : ReqWord) : byteField w = 0#8 ↔ w.toNat % 2 ^ 8 = 0 := by
  simp [byteField, ← BitVec.toNat_inj, BitVec.extractLsb'_toNat]

theorem zeroFieldZ_eq_zero_iff (w : ReqWord) : zeroFieldZ w = 0#28 ↔ w.toNat % 2 ^ 28 = 0 := by
  simp [zeroFieldZ, ← BitVec.toNat_inj, BitVec.extractLsb'_toNat]

theorem zeroFieldT_eq_zero_iff (w : ReqWord) : zeroFieldT w = 0#19 ↔ w.toNat / 2 ^ 9 % 2 ^ 19 = 0 := by
  simp [zeroFieldT, ← BitVec.toNat_inj, BitVec.extractLsb'_toNat, Nat.shiftRight_eq_div_pow]

theorem zeroFieldN_eq_zero_iff (w : ReqWord) : zeroFieldN w = 0#4 ↔ w.toNat / 2 ^ 4 % 2 ^ 4 = 0 := by
  simp [zeroFieldN, ← BitVec.toNat_inj, BitVec.extractLsb'_toNat, Nat.shiftRight_eq_div_pow]

theorem whenZero_illegal_iff (z : Bool) (i : Instr) : (∃ why, whenZero z i = .illegal why) ↔ z = false := by
  cases z <;> simp [whenZero]

/-- Settles O3: in each row the decoder's zero test is the row's clause of R84 (b); off the nine rows it is R84 (a). -/
theorem decoderRejectsExactlyIllegalWords : Obligations.DecoderRejectsExactlyIllegalWords := by
  intro w
  unfold decode Machine.IllegalWord
  rw [toNat_opField]
  split
  next hop => -- PSET
    simp [hop]
  next hop => -- PGET
    simp [hop, whenZero_illegal_iff, byteField_eq_zero_iff]
  next hop => -- PCLR
    simp [hop, whenZero_illegal_iff, zeroFieldZ_eq_zero_iff]
  next hop => -- PACK
    simp [hop, whenZero_illegal_iff, zeroFieldZ_eq_zero_iff]
  next hop => -- XFER
    simp [hop, whenZero_illegal_iff, zeroFieldT_eq_zero_iff]
  next hop => -- NIB
    simp [hop, whenZero_illegal_iff, zeroFieldT_eq_zero_iff, zeroFieldN_eq_zero_iff, imp_iff_not_or]
  next hop => -- INIT4
    simp [hop, whenZero_illegal_iff, zeroFieldZ_eq_zero_iff]
  next hop => -- RELEASE
    simp [hop, whenZero_illegal_iff, zeroFieldZ_eq_zero_iff]
  next hop => -- REFRESH
    simp [hop, whenZero_illegal_iff, zeroFieldZ_eq_zero_iff]
  next => -- a reserved opcode
    have hreserved : Machine.opNumber w = 0 ∨ 10 ≤ Machine.opNumber w := by grind
    exact iff_of_true ⟨_, rfl⟩ (hreserved.imp_right .inl)

end Sys2Proof

namespace Sys2Proof.Machine

/-- A word the decoder rejects is an illegal request, the input taken (R84, R184). -/
theorem step_illegalWord {s : State} {w : ReqWord} {rest : List HostInput} (hp : s.pending = .word w :: rest)
    (hw : IllegalWord w) : step s = illegalRequest w { s with pending := rest } := by
  obtain ⟨why, hdecode⟩ := (decoderRejectsExactlyIllegalWords w).2 hw
  simp [step, takeInput, hp, runInput, runWord, hdecode]

/-- The answer `(FAULTED, cause=4, 0, 0)` as a number (R87, R184). -/
theorem respFaulted_illegal : respFaulted causeIllegal = { stream := [], word := 0x1800 } := by decide

/-- Settles O9: the decoder rejects the word (O3), and READY raises IllegalRequest; the first fault is recorded. -/
theorem illegalWordTakesFault : Obligations.IllegalWordTakesFault := by
  intro s w rest hs hfault hp hw
  have haccepting : Accepting { s with pending := rest } := hs
  rw [step_illegalWord hp hw, illegalRequest_ready haccepting.1 haccepting.2]
  have hnone : s.fault.cause = causeNone := hfault
  rw [raise, respFaulted_illegal]
  simp [respond, hnone, hs.1, causeIllegal]

/-! ## The response word (R87) -/

theorem respWord_eq_append (status : BitVec 4) (cause : BitVec 3) (valid : Level) (value : Byte) :
    respWord status cause valid value = status ++ cause ++ BitVec.ofBool valid ++ value := by
  ext i hi
  grind [respWord]

/-- Settles O6: the word is its four fields side by side, and each is cut out again. -/
theorem responseWordFields : Obligations.ResponseWordFields := by
  intro status cause valid value
  rw [respWord_eq_append]
  refine ⟨?_, ?_, ?_, BitVec.extractLsb'_append_eq_right⟩
  · rw [BitVec.extractLsb'_append_eq_of_le (by decide), BitVec.extractLsb'_append_eq_of_le (by decide)]
    exact BitVec.extractLsb'_append_eq_left
  · rw [BitVec.extractLsb'_append_eq_of_le (by decide), BitVec.extractLsb'_append_eq_of_le (by decide)]
    exact BitVec.extractLsb'_append_eq_right
  · rw [BitVec.getLsbD_append, BitVec.getLsbD_append]
    simp

/-! ## Requests that stand for other requests (R89, R165, R171) -/

/-- A list of data transfers sends its bytes one after another; only the responses are not those of one sending. -/
theorem execAll_dataTransfers {s : State} (hs : Accepting s) (out : List Byte) :
    ∃ rs, execAll (out.map (.xfer true)) s = .next
      { sent s (out.flatMap (xferEvents s.straps s.mode true)) (out.map (.byte true)) with responses := rs } := by
  induction out generalizing s with
  | nil => exact ⟨s.responses, by simp [execAll, sent_eq, ← hs.1]⟩
  | cons b out ih =>
    have hfirst : exec (.xfer true b) s =
        .next (respond (sent s (xferEvents s.straps s.mode true b) [.byte true b]) respDone) :=
      execXfer_accepting hs true b
    rw [List.map_cons, execAll, hfirst]
    obtain ⟨rs, hrest⟩ := ih (s := respond (sent s (xferEvents s.straps s.mode true b) [.byte true b]) respDone)
      (by rw [sent_eq]; exact ⟨rfl, hs.2⟩)
    refine ⟨rs, hrest.trans ?_⟩
    simp [sent_eq, respond, replay_append]

theorem stopCursor_of_idle {s : State} (h : s.pk = none) : stopCursor s = s := by
  rw [stopCursor, ← h]

/-- Settles O43: `PACK` answers the packed stream, `REFRESH` sends it, and so do its bytes as `XFER 1` requests. -/
theorem refreshIsSequenceOfDataTransfers : Obligations.RefreshIsSequenceOfDataTransfers := by
  intro s hs hpk
  obtain ⟨rs, htransfers⟩ := execAll_dataTransfers hs (packedStream s.straps s.pb)
  have hpack := execPack_accepting hs
  have hrefresh := execRefresh_accepting hs
  rw [stopCursor_of_idle hpk] at hpack
  rw [stopCursor_of_idle (by rw [sent_eq]; exact hpk)] at hrefresh
  exact ⟨_, _, _, hpack, hrefresh, htransfers, rfl⟩

/-- Settles O50: each of the four procedures issues one `XFER` and keeps the shadow registers. -/
theorem simpleProceduresSendOneByte : Obligations.SimpleProceduresSendOneByte := by
  rintro s rest p rs b hs hp (⟨rfl, rfl⟩ | ⟨rfl, rfl⟩ | ⟨a, rfl, rfl, rfl⟩ | ⟨a, rfl, rfl, rfl⟩)
  · exact stepMany_oneByte hs hp rfl rfl
  · exact stepMany_oneByte hs hp rfl rfl
  · exact stepMany_oneByte hs hp rfl (by rw [← addressByte_eq, expansion])
  · exact stepMany_oneByte hs hp rfl (by rw [← addressByte_eq, expansion])

end Sys2Proof.Machine
end

section
/-! PROOFS. The pixel buffer's requests: clearing every cell, and what the four of them leave alone
(spec/41_pixelbuffer.md). -/

namespace Sys2Proof.Machine

/-- A cleared buffer reads 0 at the addresses of its cells and as before at every other one (R103). -/
theorem read_clearedCells {s : State} (h : Memory.wf s.pb = true) (a : Nat) :
    Memory.read (clearedCells s) a = if a < cellCount s.straps then 0 else Memory.read s.pb a := by
  rw [clearedCells, read_fill h]
  simp only [List.mem_range]

/-- Settles O22: `PCLR` fills the buffer's addresses with 0, and the filled cells are exactly those below W*H. -/
theorem pclrZeroesEveryCell : Obligations.PclrZeroesEveryCell := by
  refine ⟨decode_of_encode_eq rfl rfl, fun s hs hwf => ⟨_, execPclr_accepting hs, rfl, fun a ha => ?_, fun a ha => ?_⟩⟩
  · exact (read_clearedCells hwf a).trans (if_pos ha)
  · exact (read_clearedCells hwf a).trans (if_neg (Nat.not_lt.2 ha))

/-- The requests of the pixel buffer and the packer (R100, R111). -/
def IsPixelRequest (i : Instr) : Prop :=
  (∃ x y v, i = .pset x y v) ∨ (∃ x y, i = .pget x y) ∨ i = .pclr ∨ i = .pack

/-- Such a request writes at most the cells, the packer's cursor and the responses. -/
theorem effect_pixelRequest_frame {s t : State} {i : Instr} (e : Effect s i t) (hi : IsPixelRequest i) :
    t = { s with pb := t.pb, pk := t.pk, responses := t.responses } := by
  obtain ⟨x, y, v, rfl⟩ | ⟨x, y, rfl⟩ | rfl | rfl := hi
  case inl => cases e with
    | refused => rfl
    | psetOutside => rfl
    | psetInside => rfl
  case inr.inl => cases e with
    | refused => rfl
    | pget => rfl
  case inr.inr.inl => cases e with
    | refused => rfl
    | pclr => rfl
  case inr.inr.inr => cases e with
    | refused => rfl
    | pack => rfl

/-- Settles O59: none of the nine fields is the cells, the cursor or the responses. -/
theorem pixelRequestsTouchNoLine : Obligations.PixelRequestsTouchNoLine := by
  intro s t i h hi
  rw [effect_pixelRequest_frame (exec_effect h) hi]
  exact ⟨rfl, rfl, rfl, rfl, rfl, rfl, rfl, rfl, rfl⟩

end Sys2Proof.Machine
end

section
/-! PROOFS. The packed stream bit by bit: which pixel each bit shows, and what the requests do to it
(spec/42_packer.md, spec/45_graphics.md). -/

namespace Sys2Proof.Machine

/-! ## One packed byte (R110) -/

/-- Lane `i` of the eight cells read for a packed byte is row `r + i` of the column (R75, R110). -/
theorem getLsbD_packBits_cells (c : Straps) (m : Memory) (x r : Nat) {i : Nat} (hi : i < 8) :
    (packBits ((packAddrs c x r).map (Memory.read m))).getLsbD i = (Memory.read m (cellAddr c x (r + i)) != 0) := by
  rw [packBits, getLsbD_sumBits _ i hi]
  simp [packAddrs, List.getD_eq_getElem?_getD, hi]

/-- Settles O24: where `PackByte` is defined its eight cells are read, and each lane shows one of them. -/
theorem packByteBitIsRow : Obligations.PackByteBitIsRow := by
  intro s x r hx hr
  exact ⟨_, packByte_ok hx (by omega), fun i hi => getLsbD_packBits_cells s.straps s.pb x r hi⟩

/-! ## The stream (R111) -/

theorem length_packedStream (c : Straps) (m : Memory) : (packedStream c m).length = packedCount c := by
  simp [packedStream, packedBytes]

theorem getD_packedStream {c : Straps} {k : Nat} (hk : k < packedCount c) (m : Memory) :
    (packedStream c m).getD k 0 = packedByteAt c m k := by
  simp [packedStream, packedBytes, List.getD_eq_getElem?_getD, hk]

/-- Bit `j` of byte `k` is row `8×(k div W) + j` of column `k mod W` (R111). -/
theorem getLsbD_packedByteAt (c : Straps) (m : Memory) (k : Nat) {j : Nat} (hj : j < 8) :
    (packedByteAt c m k).getLsbD j = (Memory.read m (cellAddr c (k % c.width) (8 * (k / c.width) + j)) != 0) := by
  rw [packedByteAt, getLsbD_packBits_cells c m _ _ hj, Nat.mul_comm 8]

/-- The pixel a bit of the stream shows is inside the buffer (R58, R111). -/
theorem streamPixel_lt {c : Straps} {k j : Nat} (hk : k < packedCount c) (hj : j < 8) :
    k % c.width < c.width ∧ 8 * (k / c.width) + j < c.height := by
  have hrow : k / c.width * 8 + 7 < c.height := lineGroup_lt (Nat.div_lt_of_lt_mul hk)
  exact ⟨Nat.mod_lt k (width_pos_of_lt_packedCount hk), by omega⟩

/-- Exactly one bit of the stream shows pixel `(x, y)`: bit `y mod 8` of element `(y div 8)×W + x` (R111, R112 (a)). -/
theorem streamPixel_eq_iff {w x : Nat} (hx : x < w) (y k : Nat) {j : Nat} (hj : j < 8) :
    (k % w = x ∧ 8 * (k / w) + j = y) ↔ (k = y / 8 * w + x ∧ j = y % 8) := by
  have hplace : k / w = y / 8 ∧ k % w = x ↔ x + w * (y / 8) = k ∧ x < w := Nat.div_mod_unique (by omega)
  have hcomm : y / 8 * w = w * (y / 8) := Nat.mul_comm _ _
  omega

/-- The stream is a function of which pixels are lit (R112 (c)). -/
theorem packedStream_congr {c : Straps} {m m' : Memory}
    (h : ∀ x y, x < c.width → y < c.height →
      (Memory.read m (cellAddr c x y) != 0) = (Memory.read m' (cellAddr c x y) != 0)) :
    packedStream c m = packedStream c m' := by
  refine List.map_congr_left fun k hk => BitVec.eq_of_getLsbD_eq fun j hj => ?_
  have hcount : k < packedCount c := by simpa using hk
  obtain ⟨hx, hy⟩ := streamPixel_lt hcount hj
  rw [getLsbD_packedByteAt c m k hj, getLsbD_packedByteAt c m' k hj, h _ _ hx hy]

/-- A buffer with no cell lit packs to zeroes. -/
theorem packedStream_nil (c : Straps) : packedStream c [] = List.replicate (packedCount c) 0 := by
  have hzero (k : Nat) : packedByteAt c [] k = 0 :=
    BitVec.eq_of_getLsbD_eq fun j hj => (getLsbD_packedByteAt c [] k hj).trans (by simp [Memory.read, unlistedCell])
  refine List.eq_replicate_iff.2 ⟨length_packedStream c [], fun b hb => ?_⟩
  obtain ⟨k, -, rfl⟩ := List.mem_map.1 hb
  exact hzero k

/-- The packer's stream is the one R111 asks for. -/
theorem isPackedStream_packedStream (s : State) : IsPackedStream s (packedStream s.straps s.pb) := by
  refine ⟨length_packedStream _ _, fun L x i hL hx hi => ?_⟩
  have hw : 0 < s.straps.width := by omega
  obtain ⟨hdiv, hmod⟩ := (Nat.div_mod_unique hw (a := L * s.straps.width + x) (d := L)).2
    ⟨by rw [Nat.mul_comm L]; exact Nat.add_comm _ _, hx⟩
  have hk : L * s.straps.width + x < packedCount s.straps :=
    ((Nat.div_lt_iff_lt_mul hw).1 (hdiv.trans_lt hL)).trans_eq (Nat.mul_comm _ _)
  rw [getD_packedStream hk, getLsbD_packedByteAt _ _ _ hi, hdiv, hmod]
  rfl

/-! ## What `PACK` and `REFRESH` answer (R111, R112, R171) -/

/-- `PACK` on an accepting block, as a record (R111). -/
theorem exec_pack_accepting {s : State} (hs : Accepting s) :
    exec .pack s = .next
      { s with pk := none, responses := s.responses ++ [{ stream := packedStream s.straps s.pb, word := 0 }] } :=
  execPack_accepting hs

/-- A `PACK` after a request that leaves the block accepting answers the stream of the buffer as that request left it. -/
theorem execAll_thenPack {s t : State} {i : Instr} (h : exec i s = .next t) (ht : Accepting t) :
    execAll [i, .pack] s = .next
      { t with pk := none, responses := t.responses ++ [{ stream := packedStream t.straps t.pb, word := 0 }] } := by
  simp only [execAll, h, exec_pack_accepting ht]

/-- Settles O25: the loop's stream is the one R111 asks for. -/
theorem packAnswersPackedStream : Obligations.PackAnswersPackedStream :=
  ⟨decode_of_encode_eq rfl rfl, fun s hs => ⟨_, isPackedStream_packedStream s, exec_pack_accepting hs⟩⟩

/-- Settles O26: the first `PACK` leaves the straps and the cells, of which the second's stream is a function. -/
theorem packTwiceAnswersTheSame : Obligations.PackTwiceAnswersTheSame := by
  intro s hs
  refine ⟨packedStream s.straps s.pb, (execAll_thenPack (exec_pack_accepting hs) hs).trans ?_⟩
  rw [List.append_assoc]
  rfl

/-- Settles O42: `REFRESH` sends the packed stream, and the sequencer is IDLE before and after. -/
theorem refreshSendsPackedStream : Obligations.RefreshSendsPackedStream := by
  intro s hs
  refine ⟨packedStream s.straps s.pb, isPackedStream_packedStream s, (execRefresh_accepting hs).trans ?_⟩
  rw [sent_eq, ← hs.1]
  rfl

/-! ## How the stream depends on the cells (R112) -/

/-- Settles O29: equal lit pixels pack to equal streams. -/
theorem streamDependsOnlyOnLitPixels : Obligations.StreamDependsOnlyOnLitPixels := by
  intro s s' t t' hs hs' hstraps hlit hpack hpack'
  have hstream : packedStream s.straps s.pb = packedStream s'.straps s'.pb := by
    rw [hstraps]
    exact packedStream_congr fun x y hx hy => by simpa only [pixel, hstraps] using hlit x y hx hy
  rw [exec_pack_accepting hs] at hpack
  rw [exec_pack_accepting hs'] at hpack'
  cases hpack
  cases hpack'
  simp only [List.getLast?_concat, hstream]

/-- A cleared buffer packs as an empty one (R103). -/
theorem packedStream_clearedCells {s : State} (h : Memory.wf s.pb = true) :
    packedStream s.straps (clearedCells s) = List.replicate (packedCount s.straps) 0 := by
  rw [← packedStream_nil]
  refine packedStream_congr fun x y hx hy => ?_
  rw [read_clearedCells h, if_pos (cellAddr_lt hx hy)]
  rfl

/-- Settles O28: `PACK` answers the stream of the cleared buffer. -/
theorem pclrMakesStreamZero : Obligations.PclrMakesStreamZero := by
  intro s hs hwf
  have hclear : exec .pclr s = .next (respond { s with pb := clearedCells s } respDone) := execPclr_accepting hs
  refine ⟨_, execAll_thenPack hclear hs, ?_⟩
  simp only [respond_straps, respond_pb, respond_responses, packedStream_clearedCells hwf, List.append_assoc]
  rfl

/-- The stream a `PACK` on an accepting block was seen to answer is the packed stream. -/
theorem stream_of_pack {s u : State} {out : List Byte} {w : RespWord} (hpack : exec .pack s = .next u)
    (hs : Accepting s) (hresp : u.responses = s.responses ++ [{ stream := out, word := w }]) :
    out = packedStream s.straps s.pb := by
  rw [exec_pack_accepting hs] at hpack
  cases hpack
  obtain ⟨hstream, -⟩ : packedStream s.straps s.pb = out ∧ 0 = w := by simpa using hresp
  exact hstream.symm

/-- The stream after a write to cell `(x, y)`: only the bit that shows it changes (R112 (a)). -/
theorem getLsbD_packedByteAt_write {c : Straps} {m : Memory} (hwf : Memory.wf m = true) {x : Nat} (hx : x < c.width)
    (y : Nat) (v : Byte) {k j : Nat} (hk : k < packedCount c) (hj : j < 8) :
    (packedByteAt c (Memory.write m (cellAddr c x y) v) k).getLsbD j =
      if k = y / 8 * c.width + x ∧ j = y % 8 then v != 0 else (packedByteAt c m k).getLsbD j := by
  rw [getLsbD_packedByteAt c _ k hj, getLsbD_packedByteAt c m k hj]
  split
  next hbit =>
    obtain ⟨hcol, hrow⟩ := (streamPixel_eq_iff hx y k hj).2 hbit
    rw [hcol, hrow, read_write_self hwf]
  next hbit =>
    have hother : cellAddr c (k % c.width) (8 * (k / c.width) + j) ≠ cellAddr c x y := fun haddr =>
      hbit ((streamPixel_eq_iff hx y k hj).1 (cellAddr_inj (streamPixel_lt hk hj).1 hx haddr))
    rw [read_write_other hother]

/-- Settles O27: both streams are the packed ones, and `PSET` writes one cell. -/
theorem psetChangesOneBitOfStream : Obligations.PsetChangesOneBitOfStream := by
  intro s t u u' x y v out out' hs hwf _ hx hy hpset hpack hout hpack' hout'
  have hwrite : exec (.pset x y v) s =
      .next (respond { s with pb := Memory.write s.pb (cellAddr s.straps x y) v } respDone) :=
    execPset_inRange hs (inRange_natCast hx hy) v
  rw [hwrite] at hpset
  cases hpset
  obtain rfl := stream_of_pack hpack hs hout
  obtain rfl := stream_of_pack hpack' hs hout'
  simp only [respond_straps, respond_pb, length_packedStream]
  refine ⟨trivial, fun k j hk hj => ?_⟩
  rw [getD_packedStream hk, getD_packedStream hk]
  exact getLsbD_packedByteAt_write hwf hx y v hk hj

end Sys2Proof.Machine
end

section
/-! PROOFS. The bus transport: the event list of each request with its delays and without, and the whole next state of
each request on an accepting block (spec/43_transport.md). -/

namespace Sys2Proof.Machine

/-! ## Where the OPEN delays stand (R132) -/

theorem delayOf_pos {n : Nat} (h : 0 < n) : delayOf n = [.delay n] := if_neg h.ne'

/-- A strobe at default timing has no delay but the hold (R122, R132). -/
theorem strobe_defaultTiming {c : Straps} (h : DefaultTiming c) :
    strobe c = [.wr .e true, .delay 1, .wr .e false] := by
  obtain ⟨hsetup, hel, _⟩ := h
  simp [strobe, delayOf, hsetup, hel, Config.holdUs]

/-- With both its OPEN delays, a strobe stands between them (R132). -/
theorem strobe_delayed {c : Straps} (hsetup : 0 < c.tSetup) (hel : 0 < c.tEl) :
    strobe c = [.delay c.tSetup, .wr .e true, .delay 1, .wr .e false, .delay c.tEl] := by
  simp [strobe, delayOf_pos hsetup, delayOf_pos hel, Config.holdUs]

/-- `T_POST` at its default is no event (R132). -/
theorem delayOf_tPost_defaultTiming {c : Straps} (h : DefaultTiming c) : delayOf c.tPost = [] := if_pos h.2.2

/-! ## The lists at default timing (R124 to R127) -/

/-- The twelve events of `XFER` in FULL mode (R124). -/
theorem xferEvents_full_defaultTiming {c : Straps} (h : DefaultTiming c) (rs : Level) (b : Byte) :
    xferEvents c .full rs b =
      [.wr .rs rs, .wr .d0 (b.getLsbD 0), .wr .d1 (b.getLsbD 1), .wr .d2 (b.getLsbD 2), .wr .d3 (b.getLsbD 3),
        .wr .d4 (b.getLsbD 4), .wr .d5 (b.getLsbD 5), .wr .d6 (b.getLsbD 6), .wr .d7 (b.getLsbD 7), .wr .e true,
        .delay 1, .wr .e false] := by
  rw [xferEvents, pulseTransfer, strobe_defaultTiming h, delayOf_tPost_defaultTiming h]
  rfl

theorem getLsbD_highNibble (b : Byte) {i : Nat} (hi : i < 4) : (highNibble b).getLsbD i = b.getLsbD (4 + i) := by
  simp [highNibble, hi]

theorem getLsbD_lowNibble (b : Byte) {i : Nat} (hi : i < 4) : (lowNibble b).getLsbD i = b.getLsbD i := by
  rw [lowNibble, BitVec.getLsbD_setWidth, BitVec.getLsbD_and]
  interval_cases i <;> simp

/-- The high nibble on the four lines (R125). -/
theorem driveData_highNibble (b : Byte) :
    driveData .half (highNibble b) =
      [.wr .d0 (b.getLsbD 4), .wr .d1 (b.getLsbD 5), .wr .d2 (b.getLsbD 6), .wr .d3 (b.getLsbD 7)] := by
  simp only [driveData_half, getLsbD_highNibble, Nat.reduceLT, Nat.reduceAdd]

/-- The low nibble on the four lines (R125). -/
theorem driveData_lowNibble (b : Byte) :
    driveData .half (lowNibble b) =
      [.wr .d0 (b.getLsbD 0), .wr .d1 (b.getLsbD 1), .wr .d2 (b.getLsbD 2), .wr .d3 (b.getLsbD 3)] := by
  simp only [driveData_half, getLsbD_lowNibble, Nat.reduceLT]

/-- The fifteen events of `XFER` in HALF mode, high nibble first (R125). -/
theorem xferEvents_half_defaultTiming {c : Straps} (h : DefaultTiming c) (rs : Level) (b : Byte) :
    xferEvents c .half rs b =
      [.wr .rs rs, .wr .d0 (b.getLsbD 4), .wr .d1 (b.getLsbD 5), .wr .d2 (b.getLsbD 6), .wr .d3 (b.getLsbD 7),
        .wr .e true, .delay 1, .wr .e false, .wr .d0 (b.getLsbD 0), .wr .d1 (b.getLsbD 1), .wr .d2 (b.getLsbD 2),
        .wr .d3 (b.getLsbD 3), .wr .e true, .delay 1, .wr .e false] := by
  rw [xferEvents, driveData_highNibble, driveData_lowNibble, strobe_defaultTiming h, delayOf_tPost_defaultTiming h]
  rfl

/-- `NIB` at default timing is its pulse alone (R126). -/
theorem nibEvents_defaultTiming {c : Straps} (h : DefaultTiming c) (rs : Level) (n : Nibble) :
    nibEvents c rs n =
      [.wr .rs rs, .wr .d0 (n.getLsbD 0), .wr .d1 (n.getLsbD 1), .wr .d2 (n.getLsbD 2), .wr .d3 (n.getLsbD 3),
        .wr .e true, .delay 1, .wr .e false] := by
  rw [nibEvents, nibblePulse_defaultTiming h, delayOf_tPost_defaultTiming h, List.append_nil]

/-- `INIT4` is six pulses with RS low, five of the zero nibble and one of FS4_NIBBLE (R127). -/
theorem init4Events_eq_pulses (c : Straps) :
    init4Events c =
      pulseTransfer c .half false (0 : Nibble) ++ pulseTransfer c .half false (0 : Nibble) ++
        pulseTransfer c .half false (0 : Nibble) ++ pulseTransfer c .half false (0 : Nibble) ++
        pulseTransfer c .half false (0 : Nibble) ++ pulseTransfer c .half false c.fs4Nibble := by
  simp [init4Events, init4Nibbles, List.replicate]

/-! ## What a list leaves on the lines (R124 to R128) -/

/-- A full-width transfer writes every latch: what they held before does not matter (R124). -/
theorem replay_xferEvents_full (c : Straps) (rs : Level) (b : Byte) (l : Latches) :
    l.replay (xferEvents c .full rs b) =
      { rs := rs, e := false, d0 := b.getLsbD 0, d1 := b.getLsbD 1, d2 := b.getLsbD 2, d3 := b.getLsbD 3,
        d4 := b.getLsbD 4, d5 := b.getLsbD 5, d6 := b.getLsbD 6, d7 := b.getLsbD 7 } := by
  simp only [xferEvents, pulseTransfer, replay_append, replay_driveRS, replay_driveData_full, replay_strobe,
    replay_delayOf]

/-- A half-width transfer leaves the low nibble, sent last, on the four lines (R125). -/
theorem replay_xferEvents_half (c : Straps) (rs : Level) (b : Byte) (l : Latches) :
    l.replay (xferEvents c .half rs b) =
      { l with rs := rs, e := false, d0 := b.getLsbD 0, d1 := b.getLsbD 1, d2 := b.getLsbD 2, d3 := b.getLsbD 3 } := by
  simp only [xferEvents, replay_append, replay_driveRS, replay_driveData_half, replay_strobe, replay_delayOf,
    getLsbD_lowNibble, Nat.reduceLT]

/-- `NIB` leaves its nibble on the four lines (R126). -/
theorem replay_nibEvents (c : Straps) (rs : Level) (n : Nibble) (l : Latches) :
    l.replay (nibEvents c rs n) =
      { l with rs := rs, e := false, d0 := n.getLsbD 0, d1 := n.getLsbD 1, d2 := n.getLsbD 2, d3 := n.getLsbD 3 } := by
  simp only [nibEvents, pulseTransfer, replay_append, replay_driveRS, replay_driveData_half, replay_strobe,
    replay_delayOf]

/-- Giving the lines back writes none of them (R128). -/
theorem replay_releaseEvents (m : Mode) (l : Latches) : l.replay (releaseEvents m) = l := by
  cases m <;> rfl

/-! ## The next state of each request (R124 to R128) -/

/-- On an idle block sending leaves the sequencer as it was (R133). -/
theorem sent_of_idle {s : State} (h : s.seqPc = none) (es : List Event) (xs : List LogEntry) :
    sent s es xs = { s with trace := s.trace ++ es, line := s.line.replay es, log := s.log ++ xs } := by
  rw [sent_eq, ← h]

/-- All that `XFER` does (R124, R125). -/
theorem exec_xfer_accepting {s : State} (hs : Accepting s) (rs : Level) (b : Byte) :
    exec (.xfer rs b) s = .next
      { s with
        trace := s.trace ++ xferEvents s.straps s.mode rs b
        line := s.line.replay (xferEvents s.straps s.mode rs b)
        log := s.log ++ [.byte rs b]
        responses := s.responses ++ [{ stream := [], word := 0 }] } := by
  have h : exec (.xfer rs b) s = _ := execXfer_accepting hs rs b
  rw [h, sent_of_idle hs.1]
  rfl

/-- All that `NIB` does in HALF mode (R126). -/
theorem exec_nib_half {s : State} (hs : Accepting s) (hm : s.mode = .half) (rs : Level) (n : Nibble) :
    exec (.nib rs n) s = .next
      { s with
        trace := s.trace ++ nibEvents s.straps rs n
        line := s.line.replay (nibEvents s.straps rs n)
        log := s.log ++ [.nib rs n]
        responses := s.responses ++ [{ stream := [], word := 0 }] } := by
  have h : exec (.nib rs n) s = _ := execNib_half hs hm rs n
  rw [h, sent_of_idle hs.1]
  rfl

/-- All that `INIT4` does in HALF mode (R127). -/
theorem exec_init4_half {s : State} (hs : Accepting s) (hm : s.mode = .half) :
    exec .init4 s = .next
      { s with
        trace := s.trace ++ init4Events s.straps
        line := s.line.replay (init4Events s.straps)
        log := s.log ++ init4Log s.straps
        init4Done := true
        responses := s.responses ++ [{ stream := [], word := 0 }] } := by
  have h : exec .init4 s = _ := execInit4_half hs hm
  rw [h, sent_of_idle hs.1]
  rfl

/-- All that `RELEASE` does: the latches keep their levels (R128). -/
theorem exec_release_accepting {s : State} (hs : Accepting s) :
    exec .release s = .next
      { s with
        trace := s.trace ++ releaseEvents s.mode
        life := .released
        responses := s.responses ++ [{ stream := [], word := 0 }] } := by
  have h : exec .release s = _ := execRelease_accepting hs
  rw [h, perform_eq, replay_releaseEvents, ← hs.1]
  rfl

/-! ## Whatever the delays (R131, R132) -/

/-- Settles O36: the events of `NIB` carry its nibble, whatever the delays. -/
theorem nibSamplesItsNibble : Obligations.NibSamplesItsNibble := by
  intro s rs n hs hm
  have hcarries := carries_nibEvents rfl s.straps rs n
  exact ⟨_, nibEvents s.straps rs n, exec_nib_half hs hm rs n, rfl, by rw [replay_nibEvents], by rw [replay_nibEvents],
    hcarries.pulses, hcarries.samples s.line⟩

/-- Settles O37: the events of `INIT4` carry its six nibbles, whatever the delays. -/
theorem init4SamplesSixNibbles : Obligations.Init4SamplesSixNibbles := by
  intro s hs hm
  have hcarries := carries_init4Events rfl s.straps
  have hlog : s.log ++ List.replicate 5 (.nib false 0) ++ [.nib false s.straps.fs4Nibble] =
      s.log ++ init4Log s.straps := by
    rw [List.append_assoc]
    rfl
  refine ⟨_, init4Events s.straps, exec_init4_half hs hm, ?_, hcarries.pulses, hcarries.samples s.line⟩
  rw [hlog]

/-! ## Default timing (R124 to R127, R134) -/

/-- Settles O30: its list is `xferEvents`, which carries the byte and sets all ten latches. -/
theorem xferFullEmitsTwelveEvents : Obligations.XferFullEmitsTwelveEvents := by
  intro s rs b hs hm htiming es
  have hes : xferEvents s.straps .full rs b = es := xferEvents_full_defaultTiming htiming rs b
  refine ⟨encodeT_eq_append 5 rs b, ?_, ?_⟩
  · rw [← hes]
    exact (carries_xferEvents s.straps .full rs b).samples s.line
  · rw [exec_xfer_accepting hs, hm, replay_xferEvents_full, hes]

/-- Settles O31: its list is `xferEvents`, which carries the byte in two nibbles and leaves the low one on the lines. -/
theorem xferHalfEmitsFifteenEvents : Obligations.XferHalfEmitsFifteenEvents := by
  intro s rs b hs hm htiming es
  have hes : xferEvents s.straps .half rs b = es := xferEvents_half_defaultTiming htiming rs b
  refine ⟨encodeT_eq_append 5 rs b, ?_, ?_⟩
  · rw [← hes, (carries_xferEvents s.straps .half rs b).samples s.line, ← setWidth_highNibble, ← setWidth_lowNibble]
    rfl
  · rw [exec_xfer_accepting hs, hm, replay_xferEvents_half, hes]

/-- Settles O35: `NIB` is one pulse. -/
theorem nibEmitsEightEvents : Obligations.NibEmitsEightEvents := by
  intro s rs n hs hm htiming
  rw [exec_nib_half hs hm, replay_nibEvents, nibEvents_defaultTiming htiming]

/-- Settles O38: `INIT4` is six pulses, of which the last leaves its nibble on the lines. -/
theorem init4EmitsSixNibbles : Obligations.Init4EmitsSixNibbles := by
  intro s hs hm htiming f pulse
  have hpulse (n : Nibble) : pulseTransfer s.straps .half false n = pulse n :=
    nibblePulse_defaultTiming htiming false n
  rw [exec_init4_half hs hm, replay_init4Events, init4Events_eq_pulses, hpulse, hpulse]
  simp only [List.append_assoc]
  rfl

/-- Settles O41: at default timing every list is written out, and the counts are read off. -/
theorem transportCounts : Obligations.TransportCounts := by
  intro c rs b n h counts
  rw [xferEvents_full_defaultTiming h, xferEvents_half_defaultTiming h, nibEvents_defaultTiming h,
    init4Events_eq_pulses, nibblePulse_defaultTiming h, nibblePulse_defaultTiming h]
  exact ⟨rfl, rfl, rfl, rfl, rfl, rfl⟩

/-! ## The order of a transfer's events (R125, R132, R224) -/

/-- Settles O34: each of the three delays is an event of its own. -/
theorem delaysStandAroundTheStrobe : Obligations.DelaysStandAroundTheStrobe := by
  intro s rs b hs hm hsetup hel hpost
  refine ⟨_, exec_xfer_accepting hs rs b, ?_⟩
  rw [hm, xferEvents, pulseTransfer, strobe_delayed hsetup hel, delayOf_pos hpost]
  rfl

theorem countWrites_append (k : Line) (es fs : List Event) :
    countWrites k (es ++ fs) = countWrites k es + countWrites k fs := List.countP_append

theorem countWrites_delayOf (k : Line) (n : Nat) : countWrites k (delayOf n) = 0 := by
  unfold delayOf
  split <;> rfl

/-- The data lines are not RS (R121). -/
theorem countWrites_rs_driveData (m : Mode) {k : Nat} (p : BitVec k) : countWrites .rs (driveData m p) = 0 := by
  cases m <;> rfl

/-- A strobe writes the strobe line alone (R122). -/
theorem countWrites_rs_strobe (c : Straps) : countWrites .rs (strobe c) = 0 := by
  rw [strobe, countWrites_append, countWrites_append, countWrites_delayOf, countWrites_delayOf]
  rfl

/-- Settles O33: after `DriveRS` the list has only data writes, strobes and delays. -/
theorem halfByteWritesRsOnceFirst : Obligations.HalfByteWritesRsOnceFirst := by
  intro s rs b hs hm
  refine ⟨_, driveData .half (highNibble b) ++ strobe s.straps ++ driveData .half (lowNibble b) ++ strobe s.straps ++
    delayOf s.straps.tPost, exec_xfer_accepting hs rs b, ?_, ?_⟩
  · rw [hm, xferEvents, driveRS]
    rfl
  · simp only [countWrites_append, countWrites_rs_driveData, countWrites_rs_strobe, countWrites_delayOf]

/-- Settles O40: the `Rel` events of the owned lines, in order. -/
theorem releaseGivesBackEveryLine : Obligations.ReleaseGivesBackEveryLine := by
  intro s hs
  rw [exec_release_accepting hs]
  cases s.mode <;> rfl

end Sys2Proof.Machine
end

section
/-! PROOFS. The client layer: a procedure runs as one sequence of command bytes, and what each procedure leaves in the
shadow registers and the log (spec/44_protocol_client.md). -/

namespace Sys2Proof.Machine

/-! ## A procedure's bytes in the queue (R62, R165) -/

/-- The queue entries of `XFER` requests with one RS level (R79). -/
def xferWords (rs : Level) (bs : List Byte) : List HostInput := bs.map fun b => .word (encode (.xfer rs b))

/-- The state after the bytes `bs` were sent with one RS level, `answers` returned and `rest` left in the queue
(R124, R125). -/
def afterBytes (s : State) (rs : Level) (bs : List Byte) (answers : List Response) (rest : List HostInput) : State :=
  { s with
    trace := s.trace ++ bs.flatMap (xferEvents s.straps s.mode rs)
    line := s.line.replay (bs.flatMap (xferEvents s.straps s.mode rs))
    log := s.log ++ bs.map (.byte rs)
    responses := answers
    pending := rest }

theorem afterBytes_nil {s : State} (rs : Level) : afterBytes s rs [] s.responses s.pending = s := by
  simp [afterBytes]

theorem afterBytes_append (s : State) (rs : Level) (bs cs : List Byte) (as as' : List Response)
    (hs hs' : List HostInput) :
    afterBytes (afterBytes s rs bs as hs) rs cs as' hs' = afterBytes s rs (bs ++ cs) as' hs' := by
  simp [afterBytes, replay_append]

/-- The step that takes one `XFER` word sends its byte and nothing else (R62, R124, R125). -/
theorem step_xferWord_eq {s : State} (hs : Accepting s) {rest : List HostInput} {rs : Level} {b : Byte}
    (hp : s.pending = .word (encode (.xfer rs b)) :: rest) :
    step s = .next (afterBytes s rs [b] (s.responses ++ [{ stream := [], word := 0 }]) rest) := by
  have hidle : Accepting { s with pending := rest } := hs
  rw [step_word hp (decode_encode_xfer rs b), exec_xfer_accepting hidle]
  simp only [afterBytes, List.flatMap_singleton, List.map_singleton]

/-- Words of `XFER` at the head of the queue are taken one after another and send their bytes in order. -/
theorem stepMany_xferWords {s : State} (hs : Accepting s) {rest : List HostInput} {rs : Level} {bs : List Byte}
    (hp : s.pending = xferWords rs bs ++ rest) :
    ∃ answers, stepMany bs.length s = .next (afterBytes s rs bs answers rest) := by
  induction bs generalizing s with
  | nil =>
    obtain rfl : s.pending = rest := hp
    exact ⟨s.responses, by rw [afterBytes_nil]; rfl⟩
  | cons b bs ih =>
    have hstep := step_xferWord_eq hs hp
    obtain ⟨answers, hsteps⟩ := ih (s := afterBytes s rs [b] _ (xferWords rs bs ++ rest)) hs rfl
    rw [afterBytes_append] at hsteps
    exact ⟨answers, (stepMany_succ hstep _).trans hsteps⟩

/-- A procedure that issues command bytes updates the shadow registers and sends those bytes, RS low, in order
(R147, R165). -/
theorem stepMany_commands {s : State} (hs : Accepting s) {rest : List HostInput} {p : Pseudo} {bs : List Byte}
    (hp : s.pending = .pseudo p :: rest)
    (hexp : expansion (clientAfter s.straps s.client p) p = bs.map (.xfer false)) :
    ∃ answers, stepMany (bs.length + 1) s =
      .next (afterBytes { s with client := clientAfter s.straps s.client p } false bs answers rest) := by
  have hqueue : (runPseudo p { s with pending := rest }).pending = xferWords false bs ++ rest := by
    simp [hexp, xferWords]
  rw [stepMany_succ (step_pseudo hp)]
  exact stepMany_xferWords (s := runPseudo p { s with pending := rest }) hs hqueue

/-! ## The shadow registers (R30, R143, R147) -/

/-- Only the named register takes the new value (R30). -/
theorem shadow_setShadow (c : ClientRegs) (r q : ShadowReg) (v : Byte) :
    shadow (setShadow c r v) q = if q = r then v else shadow c q := by
  cases r <;> cases q <;> rfl

theorem shadow_setShadow_same (c : ClientRegs) (r : ShadowReg) (v : Byte) : shadow (setShadow c r v) r = v := by
  rw [shadow_setShadow, if_pos rfl]

theorem shadow_setShadow_other {q r : ShadowReg} (h : q ≠ r) (c : ClientRegs) (v : Byte) :
    shadow (setShadow c r v) q = shadow c q := by
  rw [shadow_setShadow, if_neg h]

/-- A procedure that gives one register a value and then transmits it: one command byte, the whole register (R143, R147). -/
theorem stepMany_registerUpdate {s : State} (hs : Accepting s) {rest : List HostInput} {p : Pseudo} {r : ShadowReg}
    {v : Byte} (hp : s.pending = .pseudo p :: rest) (hclient : clientAfter s.straps s.client p = setShadow s.client r v)
    (hexp : ∀ c, expansion c p = [.xfer false (registerByte c r)]) :
    ∃ u, stepMany 2 s = .next u ∧ shadow u.client r = v ∧ (∀ q, q ≠ r → shadow u.client q = shadow s.client q) ∧
      u.log = s.log ++ [.byte false (commandOf r ||| v)] ∧ u.pending = rest ∧ u.pb = s.pb := by
  have hbyte : registerByte (setShadow s.client r v) r = commandOf r ||| v := by
    rw [registerByte, shadow_setShadow_same]
  obtain ⟨answers, hsteps⟩ := stepMany_commands hs hp (bs := [commandOf r ||| v]) (by rw [hexp, hclient, hbyte]; rfl)
  rw [hclient] at hsteps
  exact ⟨_, hsteps, shadow_setShadow_same _ _ _, fun q hq => shadow_setShadow_other hq _ _, rfl, rfl, rfl⟩

/-- Settles O45: either toggle gives its register a value and transmits it. -/
theorem flagToggleRetransmitsWholeRegister : Obligations.FlagToggleRetransmitsWholeRegister := by
  intro s rest r m set hs hp v
  cases set <;> exact stepMany_registerUpdate hs hp rfl fun _ => rfl

/-- Settles O48: `FINALIZE` sends two command bytes, the second from the register it has masked. -/
theorem finalizeClearsThenDisplayOff : Obligations.FinalizeClearsThenDisplayOff := by
  intro s rest hs hp
  obtain ⟨answers, hsteps⟩ := stepMany_commands hs hp (bs := [Config.clearDisplay,
    Config.displayControlCmd ||| (s.client.displayControl &&& ~~~Config.fDisplayOn)]) rfl
  exact ⟨_, hsteps, rfl, rfl, rfl⟩

/-! ## Bring-up (R146, R214) -/

/-- The six command bytes of bring-up: the registers at their defaults, with the clear and the home between them
(R144, R146). -/
def bringupBytes (c : Straps) : List Byte :=
  [Config.functionSetCmd ||| composeDisplayFunction c, Config.displayControlCmd ||| Config.displayControlDefault,
    Config.clearDisplay, Config.returnHome, Config.entryModeCmd ||| Config.entryModeDefault,
    Config.modePowerCmd ||| Config.modePowerDefault]

/-- `BRINGUP` issues those bytes, whatever the shadow registers held (R146). -/
theorem expansion_bringup (c : Straps) (r : ClientRegs) :
    expansion (clientAfter c r .bringup) .bringup = (bringupBytes c).map (.xfer false) := rfl

/-- The number of events of one `XFER` at default timing (R134). -/
def xferLength : Mode → Nat
  | .full => 12
  | .half => 15

theorem length_xferEvents_defaultTiming {c : Straps} (h : DefaultTiming c) (m : Mode) (rs : Level) (b : Byte) :
    (xferEvents c m rs b).length = xferLength m := by
  cases m with
  | full => rw [xferEvents_full_defaultTiming h]; rfl
  | half => rw [xferEvents_half_defaultTiming h]; rfl

/-- Bytes sent one after another take the events of one as often (R134). -/
theorem length_flatMap_xferEvents {c : Straps} (h : DefaultTiming c) (m : Mode) (rs : Level) (bs : List Byte) :
    (bs.flatMap (xferEvents c m rs)).length = bs.length * xferLength m := by
  simp [List.length_flatMap, length_xferEvents_defaultTiming h]

/-- Settles O46: `BRINGUP` sends `bringupBytes`, each in as many events as one transfer takes. -/
theorem bringUpSendsSixCommandsInOrder : Obligations.BringUpSendsSixCommandsInOrder := by
  intro s rest hs hp
  obtain ⟨answers, hsteps⟩ := stepMany_commands hs hp (expansion_bringup s.straps s.client)
  refine ⟨_, hsteps, rfl, rfl, rfl, rfl, rfl, rfl, fun htiming => ?_⟩
  rw [afterBytes, List.length_append, length_flatMap_xferEvents htiming]
  cases s.mode <;> rfl

/-- Settles O47: bring-up starts from the trace and the log of reset, and both parts of the trace carry their entries. -/
theorem bringUpFollowsInitialisation : Obligations.BringUpFollowsInitialisation := by
  intro p h
  have hs : Accepting { State.construct p with pending := [.pseudo .bringup] } := by
    rw [construct_passed h]
    exact ⟨rfl, rfl⟩
  obtain ⟨answers, hsteps⟩ := stepMany_commands hs rfl (expansion_bringup _ _)
  rw [construct_passed h] at hsteps ⊢
  have hcarries := carries_append (carries_boot p)
    (carries_flatMap (carries_xferEvents p (bootMode p) false) (bringupBytes p))
  refine ⟨_, hsteps, rfl, ?_, hcarries.samples lowLatches⟩
  simp only [afterBytes, bootLog]
  cases bootMode p <;> rfl

end Sys2Proof.Machine
end

section
/-! PROOFS. The level of RS during a transfer and during a whole refresh, and how many events a refresh takes
(spec/45_graphics.md). -/

namespace Sys2Proof.Machine

theorem wr_notMem_of_countWrites_eq_zero {k : Line} {es : List Event} (h : countWrites k es = 0) (v : Level) :
    Event.wr k v ∉ es := fun hmem => List.countP_eq_zero.1 h _ hmem (beq_self_eq_true k)

theorem wr_rs_notMem_delayOf (n : Nat) (v : Level) : Event.wr .rs v ∉ delayOf n :=
  wr_notMem_of_countWrites_eq_zero (countWrites_delayOf .rs n) v

theorem wr_rs_notMem_driveData (m : Mode) {k : Nat} (p : BitVec k) (v : Level) : Event.wr .rs v ∉ driveData m p :=
  wr_notMem_of_countWrites_eq_zero (countWrites_rs_driveData m p) v

theorem wr_rs_notMem_strobe (c : Straps) (v : Level) : Event.wr .rs v ∉ strobe c :=
  wr_notMem_of_countWrites_eq_zero (countWrites_rs_strobe c) v

/-- In either mode and with any delays, the one level a transfer gives RS is that of its request (R120, R124, R125). -/
theorem wr_rs_mem_xferEvents_iff (c : Straps) (m : Mode) {rs v : Level} (b : Byte) :
    Event.wr .rs v ∈ xferEvents c m rs b ↔ v = rs := by
  cases m with
  | full =>
    simp [xferEvents, pulseTransfer, driveRS, wr_rs_notMem_driveData, wr_rs_notMem_strobe, wr_rs_notMem_delayOf]
  | half => simp [xferEvents, driveRS, wr_rs_notMem_driveData, wr_rs_notMem_strobe, wr_rs_notMem_delayOf]

/-- Bytes sent as data never drive RS low. -/
theorem wr_rs_low_notMem_dataTransfers (c : Straps) (m : Mode) (bs : List Byte) :
    Event.wr .rs false ∉ bs.flatMap (xferEvents c m true) := fun hmem => by
  obtain ⟨b, -, hb⟩ := List.mem_flatMap.1 hmem
  exact Bool.false_ne_true ((wr_rs_mem_xferEvents_iff c m b).1 hb)

/-- Settles O44: a refresh sends the packed stream (O42) as data transfers, one for each of its W*(H/8) bytes. -/
theorem refreshEventCountAndRsHigh : Obligations.RefreshEventCountAndRsHigh := by
  intro s hs htiming
  obtain ⟨out, ⟨hlength, -⟩, hrefresh⟩ := refreshSendsPackedStream s hs
  refine ⟨_, out.flatMap (xferEvents s.straps s.mode true), hrefresh, rfl,
    wr_rs_low_notMem_dataTransfers s.straps s.mode out, ?_⟩
  rw [length_flatMap_xferEvents htiming, hlength, Nat.mul_comm]
  cases s.mode <;> rfl

end Sys2Proof.Machine
end

section
/-! PROOFS. Faults: which checks reset reports, what raises a fault and what is refused, and what no step undoes
(spec/60_exceptions.md). -/

namespace Sys2Proof.Machine

/-! ## Accesses out of range (R182) -/

theorem execPget_outOfRange {s : State} {x y : Int} (hs : Accepting s) (h : ¬ inRange s.straps x y = true) :
    execPget x y s = .next (respond s respSentinel) := by
  rw [execPget, accept_ready hs.1 hs.2, if_neg h]

/-- Settles O21: off the buffer the range test fails, and either request only answers. -/
theorem outOfRangeAccessIsSilent : Obligations.OutOfRangeAccessIsSilent := by
  intro s x y v hs hout
  have hrange : ¬ inRange s.straps x y = true := by rw [inRange_iff]; omega
  exact ⟨execPset_outOfRange hs hrange v, execPget_outOfRange hs hrange⟩

/-! ## Fault entry (R183, R190) -/

/-- The first fault an idle block takes: it is recorded, and nothing else changes but what R190 names. -/
theorem raise_first {s : State} (hp : s.seqPc = none) (hfault : s.fault.cause = causeNone) (c : BitVec 3)
    (info : BitVec 32) :
    raise s c info =
      { s with
        life := .fault
        fault := { cause := c, info := info }
        pk := none
        responses := s.responses ++ [respFaulted c] } := by
  simp [raise, respond, hp, hfault]

/-- In FULL mode the two half-width requests raise UnimplementedCapability with their own word (R183). -/
theorem exec_halfWidth_full {s : State} {i : Instr} (hs : Accepting s) (hm : s.mode = .full)
    (hi : i = .init4 ∨ ∃ rs n, i = .nib rs n) : exec i s = .next (raise s causeCapability (encode i)) := by
  obtain rfl | ⟨rs, n, rfl⟩ := hi
  · exact execInit4_full hs hm
  · exact execNib_full hs hm rs n

/-- The answer `(FAULTED, cause=3, 0, 0)` as a number (R87, R183). -/
theorem respFaulted_capability : respFaulted causeCapability = { stream := [], word := 0x1600 } := by decide

/-- Settles O39: the request raises UnimplementedCapability, which is the first fault. -/
theorem halfWidthRequestsFaultInFullMode : Obligations.HalfWidthRequestsFaultInFullMode := by
  intro s i hs hm hfault hi
  rw [exec_halfWidth_full hs hm hi, raise_first hs.1 hfault, respFaulted_capability]
  rfl

/-! ## Refusal (R191) -/

/-- Off READY an idle block refuses every word, a request (R188) as well as an illegal one (R184). -/
theorem step_word_refused {s : State} {w : ReqWord} {rest : List HostInput} (hp : s.seqPc = none)
    (hl : s.life ≠ .ready) (hpend : s.pending = .word w :: rest) :
    step s = .next (respond { s with pending := rest } respRefused) := by
  cases hw : decode w with
  | request i => rw [step_word hpend hw]; exact exec_refused (s := { s with pending := rest }) hp hl i
  | illegal why =>
    rw [step_illegalWord hpend ((decoderRejectsExactlyIllegalWords w).1 ⟨why, hw⟩)]
    exact accept_refused (s := { s with pending := rest }) hp hl _

/-- The answer `(REFUSED, 0, 0, 0)` as a number (R87, R191). -/
theorem respRefused_eq : respRefused = { stream := [], word := 0x2000 } := by decide

/-- Settles O10: neither FAULT nor RELEASED is READY. -/
theorem everyWordRefusedWhenNotReady : Obligations.EveryWordRefusedWhenNotReady := by
  intro s w rest hp hl hpend
  have hready : s.life ≠ .ready := by rcases hl with h | h <;> simp [h]
  rw [step_word_refused hp hready hpend, respRefused_eq]
  rfl

/-! ## What no step undoes (R23, R24, R25, R192) -/

/-- From `s` to `t` the fault register changes at most from no fault to one of the two that a word can raise, the flag
is not cleared, and the lifecycle state changes at most from READY. -/
structure Sticks (s t : State) : Prop where
  fault : t.fault = s.fault ∨
    s.fault.cause = causeNone ∧ (t.fault.cause = causeCapability ∨ t.fault.cause = causeIllegal)
  flag : s.init4Done = true → t.init4Done = true
  life : s.life ≠ .ready → t.life = s.life

theorem sticks_of_eq {s t : State} (hfault : t.fault = s.fault) (hflag : t.init4Done = s.init4Done)
    (hlife : t.life = s.life) : Sticks s t :=
  ⟨.inl hfault, hflag.trans, fun _ => hlife⟩

theorem sticks_respond {s t : State} (h : Sticks s t) (r : Response) : Sticks s (respond t r) :=
  ⟨h.fault, h.flag, h.life⟩

theorem sticks_stopCursor {s t : State} (h : Sticks s t) : Sticks s (stopCursor t) :=
  ⟨h.fault, h.flag, h.life⟩

theorem sticks_sent (s : State) (es : List Event) (xs : List LogEntry) : Sticks s (sent s es xs) := by
  rw [sent_eq]
  exact sticks_of_eq rfl rfl rfl

theorem sticks_flagSet {s t : State} (h : Sticks s t) : Sticks s { t with init4Done := true } :=
  ⟨h.fault, fun _ => rfl, h.life⟩

/-- From READY the lifecycle state may become any (R23). -/
theorem sticks_leaveReady {s t : State} (h : Sticks s t) (hl : s.life = .ready) (l : Life) :
    Sticks s { t with life := l } :=
  ⟨h.fault, h.flag, absurd hl⟩

/-- Fault entry from READY keeps a fault that is recorded already (R24, R190). -/
theorem sticks_raise {s : State} (hl : s.life = .ready) {c : BitVec 3} (hc : c = causeCapability ∨ c = causeIllegal)
    (info : BitVec 32) : Sticks s (raise s c info) where
  fault := by
    rw [raise_fault]
    split
    next hnone => exact .inr ⟨hnone, hc⟩
    next => exact .inl rfl
  flag := id
  life := absurd hl

/-- No request undoes a fault, the flag, FAULT or RELEASED. -/
theorem effect_sticks {s t : State} {i : Instr} (e : Effect s i t) : Sticks s t := by
  cases e with
  | xfer => exact sticks_respond (sticks_sent s _ _) _
  | nib => exact sticks_respond (sticks_sent s _ _) _
  | refresh => exact sticks_respond (sticks_stopCursor (sticks_sent s _ _)) _
  | init4 => exact sticks_respond (sticks_flagSet (sticks_sent s _ _)) _
  | release hl => exact sticks_respond (sticks_leaveReady (sticks_sent s _ _) hl .released) _
  | nibLacked _ _ hl => exact sticks_raise hl (.inl rfl) _
  | init4Lacked hl => exact sticks_raise hl (.inl rfl) _
  | _ => exact sticks_of_eq rfl rfl rfl

theorem illegalRequest_sticks {s t : State} {w : ReqWord} (h : illegalRequest w s = .next t) : Sticks s t := by
  obtain ⟨hl, rfl⟩ | ⟨_, rfl⟩ := illegalRequest_cases h
  · exact sticks_raise hl (.inr rfl) w
  · exact sticks_of_eq rfl rfl rfl

/-- No step undoes a fault, the flag, FAULT or RELEASED. -/
theorem step_sticks {s t : State} (h : step s = .next t) : Sticks s t := by
  have htaken {rest : List HostInput} (h : Sticks { s with pending := rest } t) : Sticks s t :=
    ⟨h.fault, h.flag, h.life⟩
  obtain ⟨_, rfl⟩ | ⟨p, rest, _, rfl⟩ | ⟨w, rest, i, _, _, hexec⟩ | ⟨w, rest, why, _, _, hill⟩ := step_cases h
  · exact sticks_of_eq rfl rfl rfl
  · exact sticks_of_eq rfl rfl rfl
  · exact htaken (effect_sticks (exec_effect hexec))
  · exact htaken (illegalRequest_sticks hill)

/-- Settles O56: a fault register that changed held no fault. -/
theorem faultLifeAndFlagAreSticky : Obligations.FaultLifeAndFlagAreSticky := by
  intro s t hstep
  have h := step_sticks hstep
  refine ⟨fun hcause => ?_, h.flag, h.life⟩
  obtain hkept | ⟨hnone, _⟩ := h.fault
  · exact hkept
  · exact absurd hnone hcause

/-! ## The six checks of reset (R39, R181) -/

/-- No step records a ConfigurationError: the two causes a word can raise are others (R180). -/
theorem step_keeps_configuration_fault {s t : State} (h : step s = .next t)
    (hcause : t.fault.cause = causeConfiguration) : t.fault = s.fault := by
  obtain hkept | ⟨_, hcap | hill⟩ := (step_sticks h).fault
  · exact hkept
  · exact absurd (hcause.symm.trans hcap) (by decide)
  · exact absurd (hcause.symm.trans hill) (by decide)

/-- `configFailure` with each check written as what R181 demands of the straps. -/
theorem configFailure_eq_demands (p : Straps) :
    configFailure p =
      if ¬ (p.dataWidth = 4 ∨ p.dataWidth = 8) then some 1
      else if ¬ (p.displayLines = 1 ∨ p.displayLines = 2) then some 2
      else if ¬ (p.fontHeight = 8 ∨ p.fontHeight = 10) then some 3
      else if ¬ (0 ≤ p.fontVariant ∧ p.fontVariant ≤ 3) then some 4
      else if ¬ ((p.nData : Int) = p.dataWidth) then some 5
      else if ¬ (1 ≤ p.widthStrap ∧ 1 ≤ p.heightStrap ∧ p.heightStrap % 8 = 0 ∧ p.widthStrap ≤ 512 ∧
          p.heightStrap ≤ 512) then some 6
      else none := by
  simp only [configFailure, ne_eq, not_or, not_and_or, not_le]

/-- What `s` shows of a reset whose first failing check is the given one: the fault and no I/O, or READY (R38, R39). -/
def ShowsCheck (s : State) : Option Nat → Prop
  | some k =>
    s.life = .fault ∧ s.fault = { cause := 1, info := BitVec.ofNat 32 k } ∧ s.trace = [] ∧ s.log = [] ∧
      s.init4Done = false ∧ s.seqPc = none ∧ s.pk = none
  | none => s.life = .ready ∧ s.fault = { cause := 0, info := 0 }

theorem construct_showsCheck (p : Straps) : ShowsCheck (State.construct p) (configFailure p) := by
  cases h : configFailure p with
  | none => rw [construct_passed h]; exact ⟨rfl, rfl⟩
  | some k => rw [construct_failed h]; exact ⟨rfl, rfl, rfl, rfl, rfl, rfl, rfl⟩

/-- Settles O15: reset shows the outcome of `configFailure`, and no step records cause 1. -/
theorem resetReportsFirstFailingCheck : Obligations.ResetReportsFirstFailingCheck := by
  refine ⟨fun s t => step_keeps_configuration_fault, fun p => ?_⟩
  have h := construct_showsCheck p
  rw [configFailure_eq_demands] at h
  split_ifs at h ⊢ <;> exact h

end Sys2Proof.Machine
end
